-- ==== Sys2Proof/Word.lean ====
section
/-! DEFINITION. The widths of UKC's registers (spec 00_scope.md R7, R10, R11). -/

namespace Sys2Proof

/-- A byte of a register (R11). -/
abbrev Byte := BitVec 8

/-- A byte array b[0..n-1], byte 0 first (R11). -/
abbrev Bytes := List Byte

/-- A word of the 32-bit host bus, and a command word (R81, R120). -/
abbrev Word := BitVec 32

/-- The contents of a register of `MW` = 512 bits: an element, KEY, BLOCK, a round-key slot, a curve
parameter (R7). -/
abbrev Elem := BitVec 512

/-- A 256-bit value of the hash: digest, message block, checksum, length, key (R260). -/
abbrev HashWord := BitVec 256

/-- The number of an element register, E0..E15 (R34). -/
abbrev EReg := Fin 16

/-- The number of a point register, P0..P7 (R36). -/
abbrev PReg := Fin 8

end Sys2Proof
end

