-- ==== Sys2Proof/Machine/ByteArray.lean ====
section
/-! DEFINITION. Registers as byte arrays and as 32-bit bus words (spec 00_scope.md R11; 20_memory.md R86). -/

namespace Sys2Proof.Machine

/-- Byte j of a register: bits 8j+7..8j of its integer (R11). -/
def byteAt {n : Nat} (v : BitVec n) (j : Nat) : Byte := v.extractLsb' (8 * j) 8

/-- `bytes_n(v)`: bytes 0..n-1 of a register (R11). -/
def bytesOf {w : Nat} (n : Nat) (v : BitVec w) : Bytes := (List.range n).map (byteAt v)

/-- `int(b)`, the sum over j of b[j]·2^(8j) (R11). -/
def intOf : Bytes → Nat
  | [] => 0
  | b :: bs => b.toNat + 256 * intOf bs

/-- A 512-bit register with the bytes of `bs` in its low bytes and every byte from there up unchanged. -/
def putBytes (v : Elem) (bs : Bytes) : Elem :=
  ((v >>> (8 * bs.length)) <<< (8 * bs.length)) ||| BitVec.ofNat 512 (intOf bs)

/-- `zext_512` of a byte array (R241). -/
def zextBytes (bs : Bytes) : Elem := BitVec.ofNat 512 (intOf bs)

/-- The bus word at word index w: register bytes 4w..4w+3, byte 4w in bits 7:0 (R86). -/
def wordAt {n : Nat} (v : BitVec n) (w : Nat) : Word := v.extractLsb' (32 * w) 32

/-- The register with the bus word at index w replaced and every other byte unchanged (R83, R86). -/
def putWord {n : Nat} (v : BitVec n) (w : Nat) (x : Word) : BitVec n :=
  (v &&& ~~~((0xFFFFFFFF#32).setWidth n <<< (32 * w))) ||| (x.setWidth n <<< (32 * w))

end Sys2Proof.Machine
end

