-- ==== Sys2Proof/Config.lean ====
section
/-! DEFINITION. What the spec leaves OPEN to the implementation or the platform, and the free values: constants with no
body, so that no proof can see which value they have (spec 00_scope.md R7; 92_eei_decisions.md, open parameters;
93_implementation_defined.md U4, U5, U17, U18, U19). The parameters that have a value stand in Machine/Params.lean. -/

namespace Sys2Proof.Config

/-- OPEN: the four SPN S-boxes KSB0..KSB3, each a bijection on the 8-bit values, with its inverse table (R7, R191, R192;
U17). The constraint is in the type. -/
opaque ksb : Fin 4 → Equiv.Perm Byte

/-- OPEN: BASE / 0x1000. BASE, the bus byte address of the window, is a multiple of 0x1000 (R81; U18). -/
opaque basePage : Nat

/-- OPEN: IRQ_LINE, the number of the platform interrupt input that UKC's IRQ output drives (R372; U19). -/
opaque irqLine : Nat

/-- FREE VALUE: the n-th unspecified value that a read of a data or configuration register returns while BUSY = 1
(R92; U4). -/
opaque busyRead : Nat → Word

/-- FREE VALUE: how many host operations are served between an acceptance and its completion, for the n-th draw: any
finite number (R420; U5, U6). -/
opaque completionDelay : Nat → Nat

end Sys2Proof.Config
end

