-- ==== Sys2Proof/Machine/Params.lean ====
section
/-! DEFINITION. The parameters of spec 00_scope.md R7 that have a value, the configuration rows of R8 and R240, and the
hash tables of 43_hash.md R262 and R265. -/

namespace Sys2Proof.Machine

/-- `P8` = 0x11D = x^8 + x^4 + x^3 + x^2 + 1 (R7, R150). -/
def p8 : Nat := 0x11D

/-- `MDSV`, the first row of the mixing matrix (R7, R196). -/
def mdsv : List Byte := [0x01#8, 0x01#8, 0x05#8, 0x01#8, 0x08#8, 0x06#8, 0x07#8, 0x04#8]

/-- `MDSIV`, the first row of the inverse mixing matrix (R7, R196). -/
def mdsiv : List Byte := [0xAD#8, 0x95#8, 0x76#8, 0xA8#8, 0x2F#8, 0x49#8, 0xD7#8, 0xCA#8]

/-- `SPN_FINAL_MIX` = false: "The final round omits the column-mixing step" (R7, R200). -/
def spnFinalMix : Bool := false

/-- `ID_VALUE` (R7, R32). -/
def idValue : Word := 0x554B4331#32

/-- `VERSION_VALUE` (R7, R33). -/
def versionValue : Word := 0x00000001#32

/-- `BASE`: a multiple of 0x1000 (R7, R81). -/
def base : Nat := 0x1000 * Config.basePage

/-- A row of R240: block size and key size in 64-bit words (Nb, Nk), and the round count R. -/
structure KeyRow where
  nb : Nat
  nk : Nat
  rounds : Nat
  deriving DecidableEq, Repr

/-- The supported (BLK, KLEN) pairs; every other combination is unsupported (R8, R240). -/
def keyRow (blk klen : BitVec 2) : Option KeyRow :=
  match blk.toNat, klen.toNat with
  | 0, 0 => some ⟨2, 2, 10⟩
  | 0, 1 => some ⟨2, 4, 14⟩
  | 1, 1 => some ⟨4, 4, 14⟩
  | 1, 2 => some ⟨4, 8, 18⟩
  | 2, 2 => some ⟨8, 8, 18⟩
  | _, _ => none

/-- `HSB0`..`HSB7`: row j lists HSBj(0), .., HSBj(15) (R262). -/
def hashBoxes : List (List Nat) :=
  [[4, 10, 9, 2, 13, 8, 0, 14, 6, 11, 1, 12, 7, 15, 5, 3],
   [14, 11, 4, 12, 6, 13, 15, 10, 2, 3, 8, 1, 0, 7, 5, 9],
   [5, 8, 1, 13, 10, 3, 4, 2, 14, 15, 12, 7, 6, 0, 9, 11],
   [7, 13, 10, 1, 0, 8, 9, 15, 14, 4, 6, 12, 11, 2, 5, 3],
   [6, 12, 7, 1, 5, 15, 13, 8, 4, 10, 9, 14, 0, 3, 11, 2],
   [4, 11, 10, 0, 7, 2, 1, 13, 3, 6, 8, 5, 9, 12, 15, 14],
   [13, 11, 4, 1, 3, 15, 5, 9, 0, 10, 14, 7, 6, 8, 2, 12],
   [1, 15, 13, 0, 5, 7, 10, 4, 9, 2, 3, 14, 6, 11, 8, 12]]

/-- `HC3` (R265); C2 and C4 are 0. -/
def hc3 : HashWord :=
  0xFF00FFFF000000FFFF0000FF00FFFF0000FF00FF00FF00FFFF00FF00FF00FF00#256

end Sys2Proof.Machine
end

