-- ==== Sys2Proof/Machine/State.lean ====
section
/-! DEFINITION. UKC's state as plain data (spec 10_state.md; reset values 70_reset_and_hazards.md R400), the operations of the host
that wait at the port, what the bus answers, and the reasons a step can stop. Every field names its rule. -/

namespace Sys2Proof.Machine

/-- The completion codes of STATUS.ERR (R360). Codes 8 to 15 are reserved and never produced, so they have no constructor. -/
inductive ErrCode where
  /-- 0: the command completed and wrote its results. -/
  | ok
  /-- 1: OP not assigned, or a must-be-zero bit set (R128). -/
  | illegalCmd
  /-- 2: a precondition on LOCK, SCHED.VALID or HST fails. -/
  | notReady
  /-- 3: (KCFG.BLK, KCFG.KLEN) is no supported pair (R240), or KCFG.BLK = 3 (R205). -/
  | invalidKeySize
  /-- 4: HFIN's byte count is over 32 (R283). -/
  | invalidLength
  /-- 5: an operand is not in range, or an inverse does not exist. -/
  | invalidOperand
  /-- 6: a source point fails the curve equation (R308). -/
  | pointNotOnCurve
  /-- 7: CFGLOCK finds the curve configuration invalid (R343). -/
  | badConfig
  deriving DecidableEq, Repr

/-- HST, the lifecycle state of the hash: 0 IDLE, 1 ACTIVE, 2 FINAL; "The value 3 is never produced" (R45). -/
inductive HashLife where
  | idle | active | final
  deriving DecidableEq, Repr

/-- One operation of the host, as it arrives at UKC's port (R96, R101), or of the host's program (R131).
`size` is the access width in bytes; `addr` is the bus byte address. -/
inductive HostOp where
  /-- R32 (R131), or a read of another width, which fails (R82). -/
  | read (addr : Nat) (size : Nat)
  /-- W32 (R131), or a write of another width, which fails (R82) whatever its data. -/
  | write (addr : Nat) (size : Nat) (data : Word)
  /-- WAIT: the host reads STATUS until BUSY is 0 (R131). -/
  | wait
  /-- CHECK: the host reads a word and asserts (value & mask) = v (R131). -/
  | check (addr : Nat) (mask v : Word)
  /-- The platform asserts UKC's reset input, or removes its power (R385, R400). -/
  | hardReset
  deriving DecidableEq, Repr

/-- What the bus gives the host back for one access (R82, R101). -/
inductive BusAnswer where
  /-- A read returned this value. -/
  | data (v : Word)
  /-- A write was accepted on the bus (whether or not UKC ignored it). -/
  | written
  /-- The bus error response to a read, with the data it carries: "a failed read returns data 0 with the error" (R82). -/
  | readError (v : Word)
  /-- The bus error response to a write (R82). -/
  | writeError
  deriving DecidableEq, Repr

/-- UKC's state, and the model's own fields (the last four). -/
structure State where
  /-- E0..E15 (R34). -/
  e : Vector Elem 16
  /-- PINF bits 7:0: bit k is the INF flag of point register k (R37). -/
  pinf : BitVec 8
  /-- KEY (R38). -/
  key : Elem
  /-- BLOCK (R39). -/
  block : Elem
  /-- KCFG.BLK (R40). -/
  kcfgBlk : BitVec 2
  /-- KCFG.KLEN (R40). -/
  kcfgKlen : BitVec 2
  /-- CURVE_M.M (R41). -/
  curveM : BitVec 10
  /-- CF, the reduction polynomial (R41). -/
  cf : Elem
  /-- CA (R41). -/
  ca : Elem
  /-- CB (R41). -/
  cb : Elem
  /-- CN, the order N (R41). -/
  cn : Elem
  /-- RK0..RK18 (R42). -/
  rk : Vector Elem 19
  /-- SCHED.VALID, which is also STATUS.SVALID (R43, R47). -/
  schedValid : Bool
  /-- SCHED.BLK (R43). -/
  schedBlk : BitVec 2
  /-- SCHED.KLEN (R43). -/
  schedKlen : BitVec 2
  /-- SCHED.NR (R43). -/
  schedNr : BitVec 5
  /-- HIV (R44). -/
  hiv : HashWord
  /-- HMSG (R44). -/
  hmsg : HashWord
  /-- HH, the running digest (R45). -/
  hh : HashWord
  /-- HSIG, the checksum (R45). -/
  hsig : HashWord
  /-- HLEN, the count of message bits (R45). -/
  hlen : HashWord
  /-- HST, visible as STATUS.HST (R45). -/
  hst : HashLife
  /-- STATUS.BUSY (R47). -/
  busy : Bool
  /-- STATUS.DONE (R47). -/
  done : Bool
  /-- STATUS.ERR (R47, R360). -/
  err : ErrCode
  /-- STATUS.LOCK (R47, R345). -/
  lock : Bool
  /-- STATUS.ONC (R47, R313). -/
  onc : Bool
  /-- STATUS.WERR (R47, R93, R94). -/
  werr : Bool
  /-- CMD, the last accepted command word; with BUSY = 1 it is the command in flight (R48, R52). -/
  cmd : Word
  /-- IRQ_EN.DONE_EN (R49). -/
  irqDoneEn : Bool
  /-- IRQ_EN.ERR_EN (R49). -/
  irqErrEn : Bool
  /-- IRQ_STAT.DONE (R50). -/
  irqDone : Bool
  /-- IRQ_STAT.ERR (R50). -/
  irqErr : Bool
  /-- The model's own: the host operations still to be served, oldest first (R30, R96). DESIGN CHOICE, log entry 1. -/
  port : List HostOp
  /-- The model's own: what the bus gave back last (R101). DESIGN CHOICE, log entry 5. -/
  answer : Option BusAnswer
  /-- The model's own: how many host operations may still be served before the command in flight completes (R420).
  DESIGN CHOICE, log entry 2. -/
  delay : Nat
  /-- The model's own: how many free values have been drawn (R92, R420). DESIGN CHOICE, log entry 4. -/
  draws : Nat
  deriving DecidableEq, Repr

/-- Why a step stops for good. No command raises one: a command's error is a completion code (R377). -/
inductive Fault where
  /-- Raised by a host access whose bus address lies outside UKC's window: it never reaches UKC (R81). Safe: the model
  stops where the rest of the platform would go on. -/
  | outsideWindow (addr : Nat)
  /-- Raised by the host's own program: the word that a CHECK read does not have the value it asserts (R131). Safe: the
  host's program has no further meaning in the spec. -/
  | checkFailed (got : Word)
  deriving DecidableEq, Repr

/-- Why an instruction has no meaning in the model. -/
inductive Refusal where
  /-- Raised only by an arm of `exec` whose instruction is not modelled; no arm raises it now. Safe: the model stops. -/
  | notModelled (mnemonic : String)
  deriving DecidableEq, Repr

/-- The state right after a hard reset: every value of R400; the model's own fields as log entries 1, 2, 4 and 5 say
(DESIGN CHOICE: nothing waits at the port, nothing was answered, nothing was drawn). -/
def State.reset : State where
  e := Vector.replicate 16 0#512
  pinf := 0#8
  key := 0#512
  block := 0#512
  kcfgBlk := 0#2
  kcfgKlen := 0#2
  curveM := 0#10
  cf := 0#512
  ca := 0#512
  cb := 0#512
  cn := 0#512
  rk := Vector.replicate 19 0#512
  schedValid := false
  schedBlk := 0#2
  schedKlen := 0#2
  schedNr := 0#5
  hiv := 0#256
  hmsg := 0#256
  hh := 0#256
  hsig := 0#256
  hlen := 0#256
  hst := .idle
  busy := false
  done := false
  err := .ok
  lock := false
  onc := false
  werr := false
  cmd := 0#32
  irqDoneEn := false
  irqErrEn := false
  irqDone := false
  irqErr := false
  port := []
  answer := none
  delay := 0
  draws := 0

end Sys2Proof.Machine
end

