-- ==== Sys2Proof/Machine/Ops.lean ====
section
/-! DEFINITION. The named operations over UKC's registers: element and point registers, acceptance, completion, the error
completion (`raise`, the one way a command reports an error), and reset. -/

namespace Sys2Proof.Machine

/-- What a step answers on this machine. -/
abbrev Result := Host.Outcome State Fault Refusal

/-! ### Element and point registers -/

/-- `E[i]` (R14, R34). -/
def State.getE (s : State) (i : EReg) : Elem := s.e[i.val]

/-- `E[i] <- v` (R14, R34). -/
def State.setE (s : State) (i : EReg) (v : Elem) : State := { s with e := s.e.set i.val v }

/-- The register that holds the X coordinate of point register k: E[2k] (R36). -/
def xReg (k : PReg) : EReg := ⟨2 * k.val, by omega⟩

/-- The register that holds the Y coordinate of point register k: E[2k+1] (R36). -/
def yReg (k : PReg) : EReg := ⟨2 * k.val + 1, by omega⟩

/-- The INF flag of point register k, PINF[k] (R37). -/
def State.getInf (s : State) (k : PReg) : Bool := s.pinf.getLsbD k.val

/-- An 8-bit value with bit k set or cleared. -/
def putBit (v : BitVec 8) (k : Nat) (b : Bool) : BitVec 8 :=
  if b then v ||| (1#8 <<< k) else v &&& ~~~(1#8 <<< k)

/-- `PINF[k] <- b` (R37). -/
def State.setInf (s : State) (k : PReg) (b : Bool) : State := { s with pinf := putBit s.pinf k.val b }

/-- A point value: O, the point at infinity, or an affine pair (R301). -/
inductive Point where
  | infinity
  | affine (x y : Elem)
  deriving DecidableEq, Repr

/-- The point value in point register k: INF = 1 means O, and X and Y are ignored (R36, R301). -/
def State.getP (s : State) (k : PReg) : Point :=
  if s.getInf k then .infinity else .affine (s.getE (xReg k)) (s.getE (yReg k))

/-- `PWRITE(d, Q)`: E[2d], E[2d+1] and PINF[d] together; O is written as 0, 0, 1 (R302). -/
def State.setP (s : State) (d : PReg) (q : Point) : State :=
  match q with
  | .infinity => ((s.setE (xReg d) 0#512).setE (yReg d) 0#512).setInf d true
  | .affine x y => ((s.setE (xReg d) x).setE (yReg d) y).setInf d false

/-! ### The life of a command -/

/-- Acceptance of the word w: CMD <- w; BUSY <- 1; DONE <- 0; ERR <- 0; it "does not decode or check w" (R346). How many
host operations are served before its completion is drawn here (R420, log entry 2). -/
def State.accept (s : State) (w : Word) : State :=
  { s with
    cmd := w
    busy := true
    done := false
    err := .ok
    delay := Config.completionDelay s.draws
    draws := s.draws + 1 }

/-- The flags of a completion with a code: ERR <- code; BUSY <- 0; DONE <- 1; IRQ_STAT.DONE <- 1; and IRQ_STAT.ERR <- 1
if code != OK. "IRQ_STAT bits are set, never cleared, by completion" (R347). -/
def State.complete (s : State) (code : ErrCode) : State :=
  { s with
    err := code
    busy := false
    done := true
    irqDone := true
    irqErr := s.irqErr || code != .ok }

/-- Taking an error: the completion that a `raise` ends in. It is precise and all-or-nothing: nothing but STATUS.ERR, BUSY
and DONE and the two IRQ_STAT bits changes (R14, R366, R377). There is no return from it: "There is no return
instruction and nothing to restore"; the next acceptance clears ERR (R378). -/
def State.raise (s : State) (code : ErrCode) : State := s.complete code

/-- A command's completion step, from the evaluation of its rule on the state `s`: the state with its writes applied
completes with OK, or the error completes and no write is applied (R347). -/
def finish (s : State) (r : Except ErrCode State) : Result :=
  match r with
  | .ok t => .next (t.complete .ok)
  | .error code => .next (s.raise code)

/-! ### Reset -/

/-- Reset of UKC: "every state element takes its reset value" and a command in flight is abandoned (R348, R400, R401).
What waits at the port and the count of draws are the model's own and no state of UKC (log entries 1 and 4). -/
def State.resetUnit (s : State) : State :=
  { State.reset with port := s.port, draws := s.draws }

/-! ### BLOCK, RK and the hash state -/

/-- `BLOCK <- v` (R39). -/
def State.setBlock (s : State) (v : Elem) : State := { s with block := v }

/-- `RK[i]`; a slot that does not exist reads as zero (only SCHED.NR > 18 could name one, log entry 17). -/
def State.getRk (s : State) (i : Nat) : Elem := s.rk[i]?.getD 0#512

/-- The four elements of the hash state written together: HH, HSIG, HLEN and HST (R45). -/
def State.setHash (s : State) (hh hsig hlen : HashWord) (hst : HashLife) : State :=
  { s with hh := hh, hsig := hsig, hlen := hlen, hst := hst }

end Sys2Proof.Machine
end

