-- ==== Sys2Proof/Machine/Poly.lean ====
section
/-! DEFINITION. Binary polynomials (spec 00_scope.md R12, R13): a natural number stands for the polynomial whose coefficient of
x^i is its bit i, and addition is `^^^`. The GF(2^8) and GF(2)[x]/(f) operations of 40_gf.md are built from these. -/

namespace Sys2Proof.Machine

/-- deg(v) + 1, and 0 for v = 0 (R12). -/
def bitlen (v : Nat) : Nat := if v = 0 then 0 else v.log2 + 1

/-- The XOR over all i < n with b[i] = 1 of (a << i). -/
def clmulUpTo (a b : Nat) : Nat → Nat
  | 0 => 0
  | n + 1 => clmulUpTo a b n ^^^ (if b.testBit n then a <<< n else 0)

/-- The carry-less product: "the XOR over all i with b[i] = 1 of (a << i)" (R12). -/
def clmul (a b : Nat) : Nat := clmulUpTo a b (bitlen b)

/-- The loop of `pmod` from the degree d + n - 1 down to d, d = deg(f): where the bit at d + i is 1, add f << i. -/
def pmodFrom (f d : Nat) : Nat → Nat → Nat
  | 0, v => v
  | i + 1, v => pmodFrom f d i (if v.testBit (d + i) then v ^^^ (f <<< i) else v)

/-- `pmod(v, f)`, for f != 0: "while deg(v) >= deg(f), v <- v ^ (f << (deg(v) - deg(f)))" (R12). -/
def pmod (v f : Nat) : Nat := pmodFrom f f.log2 (bitlen v - f.log2) v

/-- Euclid's algorithm on (r0, r1), with cofactors: t0 and t1 satisfy t0·a = r0 and t1·a = r1 modulo f throughout. Each
round swaps the pair or lowers deg(r0), so twice the two lengths is enough fuel. -/
def pgcdFrom : Nat → Nat → Nat → Nat → Nat → Nat × Nat
  | 0, r0, t0, _, _ => (r0, t0)
  | n + 1, r0, t0, r1, t1 =>
    if r1 = 0 then (r0, t0)
    else if bitlen r0 < bitlen r1 then pgcdFrom n r1 t1 r0 t0
    else
      let k := bitlen r0 - bitlen r1
      pgcdFrom n (r0 ^^^ (r1 <<< k)) (t0 ^^^ (t1 <<< k)) r1 t1

/-- The monic greatest common divisor of a and f, and a t with pmod(clmul(t, a), f) = pmod(gcd, f) (R12). -/
def pgcdCofactor (a f : Nat) : Nat × Nat :=
  pgcdFrom (2 * (bitlen a + bitlen f) + 2) f 0 a 1

/-- `pgcd(a, f)` (R12). -/
def pgcd (a f : Nat) : Nat := (pgcdCofactor a f).1

/-- `pinv(a, f)`: "exists if and only if a != 0 mod f and pgcd(a, f) = 1" (R12). Any method that returns it conforms
(R161). -/
def pinv (a f : Nat) : Option Nat :=
  if pgcd a f = 1 then some (pmod (pgcdCofactor a f).2 f) else none

/-- `gf8mul(a, b) = pmod(clmul(a, b), P8)` (R13). -/
def gf8mul (a b : Byte) : Byte := BitVec.ofNat 8 (pmod (clmul a.toNat b.toNat) p8)

/-- `gf8inv(a) = pinv(a, P8)`, for a != 0 (R13). -/
def gf8inv (a : Byte) : Option Byte := (pinv a.toNat p8).map (BitVec.ofNat 8)

/-- `zext_512(pmod(clmul(a, b), f))` (R158). -/
def mulMod (f a b : Elem) : Elem := BitVec.ofNat 512 (pmod (clmul a.toNat b.toNat) f.toNat)

/-- `zext_512(pmod(clmul(a, a), f))` (R159). -/
def sqrMod (f a : Elem) : Elem := mulMod f a a

/-- `zext_512(pinv(a, f))`, if it exists (R160). -/
def invMod (f a : Elem) : Option Elem := (pinv a.toNat f.toNat).map (BitVec.ofNat 512)

/-- The division z / w: multiplication by pinv(w, f), if it exists (R307). -/
def divMod (f z w : Elem) : Option Elem := (invMod f w).map (mulMod f z)

end Sys2Proof.Machine
end

