-- ==== Sys2Proof/Machine/Operands.lean ====
section
/-! DEFINITION. The operand forms of the commands and their checks: GF(2^8) operands, canonical elements, GFMRED's pair, point
sources, the SPN state in BLOCK, HFIN's partial block (spec R123 to R125, R150, R155, R156, R163, R205, R283, R303, R308). -/

namespace Sys2Proof.Machine

/-- A GF(2^8) operand "is valid only when E[r][511:8] = 0" (R150). -/
def isGf8 (v : Elem) : Bool := v >>> 8 == 0#512

/-- "canonical when E[r][511:m] = 0, i.e. E[r] < 2^m" (R155). -/
def isCanonical (m : Nat) (v : Elem) : Bool := v >>> m == 0#512

/-- The configured degree m = CURVE_M.M (R155). -/
def State.degM (s : State) : Nat := s.curveM.toNat

/-- The checks that every GF(2^m) command runs first: LOCK, then each element source in field order (R156). -/
def gfChecks (s : State) (rs : List EReg) : Option ErrCode :=
  if !s.lock then some .notReady
  else if rs.all fun r => isCanonical s.degM (s.getE r) then none
  else some .invalidOperand

/-- GFMRED's operand E[RS1+1] || E[RS1], for an even RS1: a polynomial of degree < 1024 (R123, R163). -/
def pairOperand (s : State) (r : EReg) : Nat :=
  (s.getE r).toNat + (s.getE (r + 1)).toNat * 2 ^ 512

/-- `ONCURVE((x, y)) = (y² + x·y = x³ + a·x² + b)`, for canonical x, y; O counts as on the curve (R300, R303). -/
def onCurve (s : State) : Point → Bool
  | .infinity => true
  | .affine x y =>
    sqrMod s.cf y ^^^ mulMod s.cf x y
      == mulMod s.cf (sqrMod s.cf x) x ^^^ mulMod s.cf s.ca (sqrMod s.cf x) ^^^ s.cb

/-- The check of one point source: canonical coordinates, then the curve equation; a source with INF = 1 is not checked
(R308). -/
def pointCheck (s : State) (k : PReg) : Option ErrCode :=
  if s.getInf k then none
  else if !isCanonical s.degM (s.getE (xReg k)) || !isCanonical s.degM (s.getE (yReg k)) then
    some .invalidOperand
  else if !onCurve s (.affine (s.getE (xReg k)) (s.getE (yReg k))) then some .pointNotOnCurve
  else none

/-- `PCHECKS`: LOCK, then each point source in field order, each checked in full (R308). -/
def pointChecks (s : State) (ks : List PReg) : Option ErrCode :=
  if !s.lock then some .notReady else ks.findSome? (pointCheck s)

/-- Nb = B/64 for a block-size code, B = 128 << BLK (R190, R205, R212). -/
def blockWords (blk : BitVec 2) : Nat := 2 * 2 ^ blk.toNat

/-- The round keys K_i = RK[i][0..B/8-1] (R212, R213). -/
def roundKey (s : State) (nb i : Nat) : Bytes := bytesOf (8 * nb) (s.getRk i)

/-- `int(HMSG[0 .. n-1] followed by 32-n zero bytes)` (R272, R283). -/
def partialBlock (m : HashWord) (n : Nat) : HashWord := BitVec.ofNat 256 (m.toNat % 2 ^ (8 * n))

end Sys2Proof.Machine
end

