-- ==== Sys2Proof/Machine/Control.lean ====
section
/-! DEFINITION. The control commands NOP and CFGLOCK (spec 45_control.md). -/

namespace Sys2Proof.Machine

/-- NOP (R340). -/
def execNop (s : State) : Result := finish s (.ok s)

/-- The checks of CFGLOCK on CURVE_M, CF, CA, CB and CN: 2 <= m <= 511, deg(f) = m, f[0] = 1, a and b canonical, b != 0,
N >= 2 (R343, R344). -/
def configValid (s : State) : Bool :=
  let m := s.degM
  (2 ≤ m && m ≤ 511)
    && (s.cf.getLsbD m && s.cf >>> (m + 1) == 0#512)
    && s.cf.getLsbD 0
    && (isCanonical m s.ca && isCanonical m s.cb)
    && s.cb != 0#512
    && 2 ≤ s.cn.toNat

/-- CFGLOCK (R343): "already locked: no effect, ERR = OK". -/
def execCfglock (s : State) : Result :=
  finish s <|
    if s.lock then .ok s
    else if configValid s then .ok { s with lock := true }
    else .error .badConfig

end Sys2Proof.Machine
end

