-- ==== Sys2Proof/Machine/Curve.lean ====
section
/-! DEFINITION. The binary-curve point unit and the scalar multiplier: PADD, PDBL, PNEG, PCHK and SMUL (spec 44_curve.md).
`none` is a division that fails, for a w with no inverse modulo a reducible f (R307). -/

namespace Sys2Proof.Machine

/-- `NEG(O) = O`, and `NEG((x, y)) = (x, x + y)` (R304). -/
def negPoint : Point → Point
  | .infinity => .infinity
  | .affine x y => .affine x (x ^^^ y)

/-- `DBL(P)` (R305, R307). -/
def dblPoint (f a : Elem) : Point → Option Point
  | .infinity => some .infinity
  | .affine x y =>
    if x = 0#512 then some .infinity
    else (divMod f y x).map fun q =>
      let l := x ^^^ q
      let x3 := sqrMod f l ^^^ l ^^^ a
      .affine x3 (sqrMod f x ^^^ mulMod f (l ^^^ 1#512) x3)

/-- `ADD(P, Q)`, complete over all input pairs (R306, R307). -/
def addPoint (f a : Elem) (p q : Point) : Option Point :=
  match p, q with
  | .infinity, q => some q
  | p, .infinity => some p
  | .affine x1 y1, .affine x2 y2 =>
    if x1 = x2 ∧ y1 = y2 then dblPoint f a (.affine x1 y1)
    else if x1 = x2 then some .infinity
    else (divMod f (y1 ^^^ y2) (x1 ^^^ x2)).map fun l =>
      let x3 := sqrMod f l ^^^ l ^^^ x1 ^^^ x2 ^^^ a
      .affine x3 (mulMod f l (x1 ^^^ x3) ^^^ x3 ^^^ y1)

/-- The loop of MUL: bits n-1 down to 0 of k, from the value Q; a failed division at any step aborts it (R315). -/
def mulLoop (f a : Elem) (k : Nat) (p : Point) : Nat → Point → Option Point
  | 0, q => some q
  | i + 1, q =>
    match dblPoint f a q with
    | none => none
    | some q2 =>
      if k.testBit i then
        match addPoint f a q2 p with
        | none => none
        | some q3 => mulLoop f a k p i q3
      else mulLoop f a k p i q2

/-- `MUL(k, P)`: left-to-right double-and-add over t = bitlen(CN) bits (R315). -/
def mulPoint (f a : Elem) (t k : Nat) (p : Point) : Option Point := mulLoop f a k p t .infinity

/-- `PWRITE` of a computed point, or INVALID_OPERAND where a division failed (R302, R307). -/
def writePoint (s : State) (d : PReg) (q : Option Point) : Except ErrCode State :=
  match q with
  | none => .error .invalidOperand
  | some q => .ok (s.setP d q)

/-- PADD (R310). -/
def execPadd (pd ps1 ps2 : PReg) (s : State) : Result :=
  finish s <|
    match pointChecks s [ps1, ps2] with
    | some code => .error code
    | none => writePoint s pd (addPoint s.cf s.ca (s.getP ps1) (s.getP ps2))

/-- PDBL (R311). -/
def execPdbl (pd ps1 : PReg) (s : State) : Result :=
  finish s <|
    match pointChecks s [ps1] with
    | some code => .error code
    | none => writePoint s pd (dblPoint s.cf s.ca (s.getP ps1))

/-- PNEG (R312). -/
def execPneg (pd ps1 : PReg) (s : State) : Result :=
  finish s <|
    match pointChecks s [ps1] with
    | some code => .error code
    | none => .ok (s.setP pd (negPoint (s.getP ps1)))

/-- PCHK's answer: O is on the curve, a non-canonical pair is not (R313). -/
def pchkAnswer (s : State) (k : PReg) : Bool :=
  if s.getInf k then true
  else if !isCanonical s.degM (s.getE (xReg k)) || !isCanonical s.degM (s.getE (yReg k)) then false
  else onCurve s (.affine (s.getE (xReg k)) (s.getE (yReg k)))

/-- PCHK (R313): it "reports the answer instead of failing". -/
def execPchk (ps1 : PReg) (s : State) : Result :=
  finish s <|
    if !s.lock then .error .notReady
    else .ok { s with onc := pchkAnswer s ps1 }

/-- SMUL (R314). -/
def execSmul (pd ps1 : PReg) (rs2 : EReg) (s : State) : Result :=
  finish s <|
    match pointChecks s [ps1] with
    | some code => .error code
    | none =>
      if (s.getE rs2).toNat ≥ s.cn.toNat then .error .invalidOperand
      else writePoint s pd (mulPoint s.cf s.ca (bitlen s.cn.toNat) (s.getE rs2).toNat (s.getP ps1))

end Sys2Proof.Machine
end

