-- ==== Sys2Proof/Machine/Gf.lean ====
section
/-! DEFINITION. The Galois-field commands (spec 40_gf.md). Each meaning evaluates its rule and completes. -/

namespace Sys2Proof.Machine

/-- GF8MUL (R151). -/
def execGf8mul (rd rs1 rs2 : EReg) (s : State) : Result :=
  finish s <|
    if !isGf8 (s.getE rs1) then .error .invalidOperand
    else if !isGf8 (s.getE rs2) then .error .invalidOperand
    else .ok (s.setE rd ((gf8mul (byteAt (s.getE rs1) 0) (byteAt (s.getE rs2) 0)).setWidth 512))

/-- GF8INV (R153): zero has no inverse, so it ends in INVALID_OPERAND with the other operands that have none (conflict C2). -/
def execGf8inv (rd rs1 : EReg) (s : State) : Result :=
  finish s <|
    if !isGf8 (s.getE rs1) then .error .invalidOperand
    else if s.getE rs1 = 0#512 then .error .invalidOperand
    else match gf8inv (byteAt (s.getE rs1) 0) with
      | none => .error .invalidOperand
      | some b => .ok (s.setE rd (b.setWidth 512))

/-- GFMADD (R157). -/
def execGfmadd (rd rs1 rs2 : EReg) (s : State) : Result :=
  finish s <|
    match gfChecks s [rs1, rs2] with
    | some code => .error code
    | none => .ok (s.setE rd (s.getE rs1 ^^^ s.getE rs2))

/-- GFMMUL (R158). -/
def execGfmmul (rd rs1 rs2 : EReg) (s : State) : Result :=
  finish s <|
    match gfChecks s [rs1, rs2] with
    | some code => .error code
    | none => .ok (s.setE rd (mulMod s.cf (s.getE rs1) (s.getE rs2)))

/-- GFMSQR (R159). -/
def execGfmsqr (rd rs1 : EReg) (s : State) : Result :=
  finish s <|
    match gfChecks s [rs1] with
    | some code => .error code
    | none => .ok (s.setE rd (sqrMod s.cf (s.getE rs1)))

/-- GFMINV (R160): zero, and an operand with no inverse modulo a reducible f, end in INVALID_OPERAND. -/
def execGfminv (rd rs1 : EReg) (s : State) : Result :=
  finish s <|
    match gfChecks s [rs1] with
    | some code => .error code
    | none =>
      if s.getE rs1 = 0#512 then .error .invalidOperand
      else match invMod s.cf (s.getE rs1) with
        | none => .error .invalidOperand
        | some v => .ok (s.setE rd v)

/-- GFMRED (R163): no canonical check; an odd RS1 is ILLEGAL_CMD (the decoder never yields one, R122). -/
def execGfmred (rd rs1 : EReg) (s : State) : Result :=
  finish s <|
    if rs1.val % 2 = 1 then .error .illegalCmd
    else match gfChecks s [] with
      | some code => .error code
      | none => .ok (s.setE rd (BitVec.ofNat 512 (pmod (pairOperand s rs1) s.cf.toNat)))

end Sys2Proof.Machine
end

