-- ==== Sys2Proof/Machine/Hash.lean ====
section
/-! DEFINITION. The hash: the internal cipher E, the mixing transforms, the compression function f, and HINIT, HUPD and HFIN (spec
43_hash.md). -/

namespace Sys2Proof.Machine

/-! ### The internal cipher -/

/-- `HSBj(x)` (R262). -/
def hashBox (j x : Nat) : Nat := (hashBoxes.getD j []).getD x 0

/-- `Sub(t)`: HSBj on nibble j, for j = 0..7 (R263). -/
def hashSub (t : Word) : Word :=
  BitVec.ofNat 32
    ((List.range 8).foldl (fun acc j => acc + hashBox j (t.toNat / 2 ^ (4 * j) % 16) * 2 ^ (4 * j)) 0)

/-- `g(x, k) = rotl_32(Sub(x + k mod 2^32), 11)` (R263). -/
def gostG (x k : Word) : Word :=
  let t := hashSub (x + k)
  (t <<< 11) ||| (t >>> 21)

/-- The key word of round i: k_(i mod 8) for i < 24, else k_(31 - i) (R264). -/
def gostKey (key : HashWord) (i : Nat) : Word :=
  if i < 24 then wordAt key (i % 8) else wordAt key (31 - i)

/-- Rounds 0 .. n-1 on the pair (n1, n2) (R264). -/
def gostRounds (key : HashWord) : Nat → Word × Word → Word × Word
  | 0, p => p
  | i + 1, p =>
    let q := gostRounds key i p
    (q.2 ^^^ gostG q.1 (gostKey key i), q.1)

/-- `E(K, X)`: 32 rounds; the output's high word is n1 and its low word n2 (R264). -/
def gostE (key : HashWord) (x : BitVec 64) : BitVec 64 :=
  let q := gostRounds key 32 (wordAt x 0, wordAt x 1)
  q.1 ++ q.2

/-! ### The mixing transforms -/

/-- y_i, the 64-bit word Y[64i+63 : 64i] (R260). -/
def word64 (y : HashWord) (i : Nat) : BitVec 64 := y.extractLsb' (64 * i) 64

/-- z_i, the 16-bit word Y[16i+15 : 16i] (R260). -/
def word16 (y : HashWord) (i : Nat) : BitVec 16 := y.extractLsb' (16 * i) 16

/-- `A(Y) = (Y >> 64) | ((y_0 ^ y_1) << 192)` (R266). -/
def mixA (y : HashWord) : HashWord :=
  (y >>> 64) ||| ((word64 y 0 ^^^ word64 y 1).setWidth 256 <<< 192)

/-- `P(Y)`: byte (i + 4k) of P(Y) is byte (8i + k) of Y, for i = 0..3 and k = 0..7 (R267). -/
def mixP (y : HashWord) : HashWord :=
  BitVec.ofNat 256 (intOf ((List.range 32).map fun t => byteAt y (8 * (t % 4) + t / 4)))

/-- `ψ(Y) = (Y >> 16) | ((z_0 ^ z_1 ^ z_2 ^ z_3 ^ z_12 ^ z_15) << 240)` (R268). -/
def psi (y : HashWord) : HashWord :=
  (y >>> 16) |||
    ((word16 y 0 ^^^ word16 y 1 ^^^ word16 y 2 ^^^ word16 y 3 ^^^ word16 y 12 ^^^ word16 y 15).setWidth 256
      <<< 240)

/-- ψ^n is ψ applied n times (R268). -/
def psiPow : Nat → HashWord → HashWord
  | 0, y => y
  | n + 1, y => psi (psiPow n y)

/-! ### The compression function -/

/-- K_1..K_4 of f(H, M): U and V stepped by A and A∘A, with C2 = C4 = 0 and C3 = HC3 (R265, R269). -/
def hashKeys (h m : HashWord) : List HashWord :=
  let u2 := mixA h
  let v2 := mixA (mixA m)
  let u3 := mixA u2 ^^^ hc3
  let v3 := mixA (mixA v2)
  let u4 := mixA u3
  let v4 := mixA (mixA v3)
  [mixP (h ^^^ m), mixP (u2 ^^^ v2), mixP (u3 ^^^ v3), mixP (u4 ^^^ v4)]

/-- `S <- sum over i = 0..3 of E(K_(i+1), h_i) << 64i` (R270). -/
def hashCipher (h m : HashWord) : HashWord :=
  BitVec.ofNat 256
    ((List.range 4).foldl
      (fun acc i => acc + (gostE ((hashKeys h m).getD i 0#256) (word64 h i)).toNat * 2 ^ (64 * i)) 0)

/-- `f(H, M) = ψ^61(H ^ ψ(M ^ ψ^12(S)))` (R270). -/
def compress (h m : HashWord) : HashWord :=
  psiPow 61 (h ^^^ psi (m ^^^ psiPow 12 (hashCipher h m)))

/-! ### The commands -/

/-- HINIT (R280): legal in every HST. -/
def execHinit (s : State) : Result :=
  finish s <| .ok (s.setHash s.hiv 0#256 0#256 .active)

/-- Absorbing a block M of n message bits: HH, then Σ and L modulo 2^256 (R271, R281, R283). -/
def absorb (s : State) (m : HashWord) (n : Nat) : State :=
  s.setHash (compress s.hh m) (s.hsig + m) (s.hlen + BitVec.ofNat 256 n) s.hst

/-- HUPD (R281). -/
def execHupd (s : State) : Result :=
  finish s <|
    if s.hst ≠ .active then .error .notReady
    else .ok (absorb s s.hmsg 256)

/-- HFIN's final partial block of n bytes; "a final block of n = 0 bytes is not compressed at all" (R272, R283). -/
def absorbPartial (s : State) (n : Nat) : State :=
  if n = 0 then s else absorb s (partialBlock s.hmsg n) (8 * n)

/-- The closing steps: f(HH, HLEN), then f(HH, HSIG), and HST <- FINAL (R283). -/
def closeHash (s : State) : State :=
  s.setHash (compress (compress s.hh s.hlen) s.hsig) s.hsig s.hlen .final

/-- HFIN n (R283). -/
def execHfin (len : Fin 64) (s : State) : Result :=
  finish s <|
    if s.hst ≠ .active then .error .notReady
    else if len.val > 32 then .error .invalidLength
    else .ok (closeHash (absorbPartial s len.val))

end Sys2Proof.Machine
end

