-- ==== Sys2Proof/Machine/Spn.lean ====
section
/-! DEFINITION. The SPN block cipher: its layers, combiners, encryption and decryption as functions of a byte array, and the
commands SPNSB to SPNIMC, ENC and DEC (spec 41_spn_cipher.md). The S-boxes are an argument of the layers; the
commands pass the OPEN `Config.ksb`. -/

namespace Sys2Proof.Machine

/-! ### The state and its layers -/

/-- The S-boxes KSB0..KSB3 (R191). -/
abbrev SBoxes := Fin 4 → Equiv.Perm Byte

/-- Byte s[8c + j]: row j of column c (R190). -/
def cell (s : Bytes) (c j : Nat) : Byte := s.getD (8 * c + j) 0#8

/-- The state of nb columns whose byte 8c + j is f c j (R190). -/
def buildState (nb : Nat) (f : Nat → Nat → Byte) : Bytes :=
  (List.range (8 * nb)).map fun i => f (i / 8) (i % 8)

/-- SB: each byte through the S-box of its row modulo 4 (R191). -/
def layerSB (box : SBoxes) (nb : Nat) (s : Bytes) : Bytes :=
  buildState nb fun c j => box (Fin.ofNat 4 j) (cell s c j)

/-- ISB: the inverse tables (R192). -/
def layerISB (box : SBoxes) (nb : Nat) (s : Bytes) : Bytes :=
  buildState nb fun c j => (box (Fin.ofNat 4 j)).symm (cell s c j)

/-- sh(j) = floor(j * Nb / 8) (R193). -/
def rowShift (nb j : Nat) : Nat := j * nb / 8

/-- SR: the byte of row j and column c goes to column (c + sh(j)) mod Nb, so column c' gets the byte of column
(c' - sh(j)) mod Nb (R193). -/
def layerSR (nb : Nat) (s : Bytes) : Bytes :=
  buildState nb fun c j => cell s ((c + (nb - rowShift nb j)) % nb) j

/-- ISR undoes SR (R194). -/
def layerISR (nb : Nat) (s : Bytes) : Bytes :=
  buildState nb fun c j => cell s ((c + rowShift nb j) % nb) j

/-- The circulant matrix of a first row v: entry [r][k] is v[(k - r) mod 8] (R196). -/
def circulant (v : List Byte) (r k : Nat) : Byte := v.getD ((k + (8 - r)) % 8) 0#8

/-- One column of a matrix product: XOR over k = 0..7 of gf8mul(col[k], M[r][k]) (R195). -/
def mixByte (v : List Byte) (s : Bytes) (c r : Nat) : Byte :=
  (List.range 8).foldl (fun acc k => acc ^^^ gf8mul (cell s c k) (circulant v r k)) 0#8

/-- Each column multiplied by the circulant matrix of v (R195, R197). -/
def mixColumns (v : List Byte) (nb : Nat) (s : Bytes) : Bytes :=
  buildState nb (mixByte v s)

/-- MC (R195, R196). -/
def layerMC (nb : Nat) (s : Bytes) : Bytes := mixColumns mdsv nb s

/-- IMC (R196, R197). -/
def layerIMC (nb : Nat) (s : Bytes) : Bytes := mixColumns mdsiv nb s

/-! ### The round-key combiners -/

/-- Column c read as a 64-bit word, little-endian (R190). -/
def column (s : Bytes) (c : Nat) : BitVec 64 := BitVec.ofNat 64 (intOf ((s.drop (8 * c)).take 8))

/-- The state of nb columns whose column c is the word f c, written back as bytes_8 (R198). -/
def buildColumns (nb : Nat) (f : Nat → BitVec 64) : Bytes :=
  (List.range nb).flatMap fun c => bytesOf 8 (f c)

/-- `Xor(s, k)` (R198). -/
def combXor (s k : Bytes) : Bytes := List.zipWith (· ^^^ ·) s k

/-- `ModAdd(s, k)`: each column modulo 2^64, no carry between columns (R198). -/
def modAdd (nb : Nat) (s k : Bytes) : Bytes := buildColumns nb fun c => column s c + column k c

/-- `ModSub(s, k)` (R198). -/
def modSub (nb : Nat) (s k : Bytes) : Bytes := buildColumns nb fun c => column s c - column k c

/-- The two key-combining operators (R17, R198). -/
inductive Combiner where
  | xor | modAdd
  deriving DecidableEq, Repr

/-- `COMB(r, R)`: ModAdd for r = 0 and r = R, Xor otherwise (R199). -/
def comb (r rounds : Nat) : Combiner := if r = 0 ∨ r = rounds then .modAdd else .xor

/-- A combiner applied to a state and a key (R198). -/
def combine (nb : Nat) (op : Combiner) (s k : Bytes) : Bytes :=
  match op with
  | .xor => combXor s k
  | .modAdd => modAdd nb s k

/-- INV(ModAdd) = ModSub and INV(Xor) = Xor (R201). -/
def uncombine (nb : Nat) (op : Combiner) (s k : Bytes) : Bytes :=
  match op with
  | .xor => combXor s k
  | .modAdd => modSub nb s k

/-! ### Encryption and decryption -/

/-- Round r of a cipher of `rounds` rounds: steps (a) to (d), the column mixing omitted in the final round unless
`mix`, the SPN_FINAL_MIX of R7 (R200). -/
def encRound (box : SBoxes) (mix : Bool) (nb rounds : Nat) (key : Nat → Bytes) (r : Nat) (s : Bytes) : Bytes :=
  let t := layerSR nb (layerSB box nb (combine nb (comb r rounds) s (key r)))
  if r + 1 < rounds ∨ mix = true then layerMC nb t else t

/-- Rounds 0 .. n-1 in order. -/
def encRounds (box : SBoxes) (mix : Bool) (nb rounds : Nat) (key : Nat → Bytes) : Nat → Bytes → Bytes
  | 0, s => s
  | r + 1, s => encRound box mix nb rounds key r (encRounds box mix nb rounds key r s)

/-- `SPN_ENC(s, K, R)`: the R rounds, then the combination with K_R (R200). -/
def spnEnc (box : SBoxes) (mix : Bool) (nb rounds : Nat) (key : Nat → Bytes) (s : Bytes) : Bytes :=
  combine nb (comb rounds rounds) (encRounds box mix nb rounds key rounds s) (key rounds)

/-- Round r undone (R201). -/
def decRound (box : SBoxes) (mix : Bool) (nb rounds : Nat) (key : Nat → Bytes) (r : Nat) (s : Bytes) : Bytes :=
  let t := if r + 1 < rounds ∨ mix = true then layerIMC nb s else s
  uncombine nb (comb r rounds) (layerISB box nb (layerISR nb t)) (key r)

/-- Rounds n-1 down to 0 undone. -/
def decRounds (box : SBoxes) (mix : Bool) (nb rounds : Nat) (key : Nat → Bytes) : Nat → Bytes → Bytes
  | 0, s => s
  | r + 1, s => decRounds box mix nb rounds key r (decRound box mix nb rounds key r s)

/-- `SPN_DEC(s, K, R)`: "the exact inverse sequence" (R201). -/
def spnDec (box : SBoxes) (mix : Bool) (nb rounds : Nat) (key : Nat → Bytes) (s : Bytes) : Bytes :=
  decRounds box mix nb rounds key rounds (uncombine nb (comb rounds rounds) s (key rounds))

/-- The full round G(s) = MC(SR(SB(s))), always with MC (R203). -/
def roundG (box : SBoxes) (nb : Nat) (s : Bytes) : Bytes :=
  layerMC nb (layerSR nb (layerSB box nb s))

/-! ### The commands -/

/-- BLOCK[0..B/8-1] replaced by f of it, every byte from B/8 up unchanged (R39, R205). -/
def onBlock (s : State) (nb : Nat) (f : Bytes → Bytes) : State :=
  s.setBlock (putBytes s.block (f (bytesOf (8 * nb) s.block)))

/-- What the six layer commands share: the block size in KCFG.BLK, where 3 is INVALID_KEY_SIZE; KCFG.KLEN is not read
(R205). -/
def layerCommand (s : State) (f : Nat → Bytes → Bytes) : Result :=
  finish s <|
    if s.kcfgBlk = 3#2 then .error .invalidKeySize
    else .ok (onBlock s (blockWords s.kcfgBlk) (f (blockWords s.kcfgBlk)))

/-- SPNSB (R206). -/
def execSpnsb (s : State) : Result := layerCommand s (layerSB Config.ksb)

/-- SPNISB (R207). -/
def execSpnisb (s : State) : Result := layerCommand s (layerISB Config.ksb)

/-- SPNSR (R208). -/
def execSpnsr (s : State) : Result := layerCommand s layerSR

/-- SPNISR (R209). -/
def execSpnisr (s : State) : Result := layerCommand s layerISR

/-- SPNMC (R210). -/
def execSpnmc (s : State) : Result := layerCommand s layerMC

/-- SPNIMC (R211). -/
def execSpnimc (s : State) : Result := layerCommand s layerIMC

/-- What ENC and DEC share: the schedule and configuration latched in SCHED, NOT_READY without one; KCFG is not read
(R212, R213). `f` gets Nb, R and the round keys. -/
def cipherCommand (s : State) (f : Nat → Nat → (Nat → Bytes) → Bytes → Bytes) : Result :=
  finish s <|
    if !s.schedValid then .error .notReady
    else
      let nb := blockWords s.schedBlk
      .ok (onBlock s nb (f nb s.schedNr.toNat (roundKey s nb)))

/-- ENC (R212). -/
def execEnc (s : State) : Result := cipherCommand s (spnEnc Config.ksb spnFinalMix)

/-- DEC (R213). -/
def execDec (s : State) : Result := cipherCommand s (spnDec Config.ksb spnFinalMix)

end Sys2Proof.Machine
end

