-- ==== Sys2Proof/Machine/KeySchedule.lean ====
section
/-! DEFINITION. The key schedule engine: the expansion and KEYEXP (spec 42_key_schedule.md). -/

namespace Sys2Proof.Machine

/-- Stage 1: the key-dependent value Kt, from the constant block of word 0 = Nb + Nk + 1 by G(ModAdd), G(Xor), G(ModAdd)
(R242). -/
def stageKt (box : SBoxes) (nb nk : Nat) (key : Bytes) : Bytes :=
  let k0 := key.take (8 * nb)
  let k1 := if nk = nb then key.take (8 * nb) else (key.drop (8 * nb)).take (8 * nb)
  let s0 := bytesOf (8 * nb) (BitVec.ofNat 512 (nb + nk + 1))
  let s1 := roundG box nb (modAdd nb s0 k0)
  let s2 := roundG box nb (combXor s1 k1)
  roundG box nb (modAdd nb s2 k0)

/-- The initial round-constant state: each of its Nb words is 0x0001000100010001 (R243). -/
def initialTmv (nb : Nat) : Bytes := buildColumns nb fun _ => 0x0001000100010001#64

/-- "Shift tmv": each word w <- (w << 1) mod 2^64, with no carry between words (R243). -/
def shiftTmv (nb : Nat) (tmv : Bytes) : Bytes := buildColumns nb fun c => column tmv c <<< 1

/-- The key transform T(D, c) (R244). -/
def keyTransform (box : SBoxes) (nb : Nat) (kt d c : Bytes) : Bytes :=
  let k := modAdd nb kt c
  let s1 := roundG box nb (modAdd nb d k)
  let s2 := roundG box nb (combXor s1 k)
  modAdd nb s2 k

/-- A byte array rotated left by n bytes: byte t is the old byte (t + n) mod the length (R245, R246). -/
def rotateBytes (n : Nat) (bs : Bytes) : Bytes := bs.drop n ++ bs.take n

/-- Stage 2, the loop of R245, with the number of even keys still to make in place of "i = R": each turn makes one key
from the low half of ID and, when Nk = 2 Nb, one from the high half; then tmv is shifted and ID rotated by a word. -/
def evenKeys (box : SBoxes) (nb nk : Nat) (kt : Bytes) : Nat → Bytes → Bytes → List Bytes
  | 0, _, _ => []
  | 1, id, tmv => [keyTransform box nb kt (id.take (8 * nb)) tmv]
  | n + 2, id, tmv =>
    let low := keyTransform box nb kt (id.take (8 * nb)) tmv
    let tmv1 := shiftTmv nb tmv
    if nk = 2 * nb then
      let high := keyTransform box nb kt ((id.drop (8 * nb)).take (8 * nb)) tmv1
      low :: high :: evenKeys box nb nk kt n (rotateBytes 8 id) (shiftTmv nb tmv1)
    else low :: evenKeys box nb nk kt (n + 1) (rotateBytes 8 id) tmv1

/-- Stage 3: after each even key but the last, the odd key, which is it rotated left by 2·Nb + 3 bytes (R246). -/
def withOddKeys (nb : Nat) : List Bytes → List Bytes
  | [] => []
  | [k] => [k]
  | k :: rest => k :: rotateBytes (2 * nb + 3) k :: withOddKeys nb rest

/-- `EXPAND(key, Nb, Nk, R)`: the R + 1 round keys RKS[0..R] (R247). -/
def expandKey (box : SBoxes) (row : KeyRow) (key : Bytes) : List Bytes :=
  withOddKeys row.nb
    (evenKeys box row.nb row.nk (stageKt box row.nb row.nk key) (row.rounds / 2 + 1) key (initialTmv row.nb))

/-- The round-key memory after KEYEXP: slot i holds RKS[i] in its low bytes and zeros above; every slot past R is zero
(R250). -/
def storeKeys (rks : List Bytes) : Vector Elem 19 :=
  Vector.ofFn fun i => (rks[i.val]?.map zextBytes).getD 0#512

/-- The writes of a successful KEYEXP: every RK slot, and SCHED <- (VALID 1, BLK and KLEN from KCFG, NR = R) (R241,
R250). -/
def State.setSchedule (s : State) (slots : Vector Elem 19) (rounds : Nat) : State :=
  { s with
    rk := slots
    schedValid := true
    schedBlk := s.kcfgBlk
    schedKlen := s.kcfgKlen
    schedNr := BitVec.ofNat 5 rounds }

/-- The round-key memory for the key in KEY and a row of R240; only KEY bytes 0..K/8-1 are read (R241). -/
def expandSlots (box : SBoxes) (row : KeyRow) (key : Elem) : Vector Elem 19 :=
  storeKeys (expandKey box row (bytesOf (8 * row.nk) key))

/-- KEYEXP (R241): INVALID_KEY_SIZE on an unsupported pair. -/
def execKeyexp (s : State) : Result :=
  finish s <|
    match keyRow s.kcfgBlk s.kcfgKlen with
    | none => .error .invalidKeySize
    | some row => .ok (s.setSchedule (expandSlots Config.ksb row s.key) row.rounds)

end Sys2Proof.Machine
end

