-- ==== Sys2Proof/Syntax.lean ====
section
/-! DEFINITION. The 26 commands, one constructor per row of spec/opcode_table.json, in the table's order, with the operands of
30_encoding.md R121 to R124 in field order (destination, source 1, source 2). -/

namespace Sys2Proof

/-- A command of UKC (R126). -/
inductive Instr where
  /-- NOP (R340). -/
  | nop
  /-- GF8MUL Ed, Es1, Es2 (R151). -/
  | gf8mul (rd rs1 rs2 : EReg)
  /-- GF8INV Ed, Es1 (R153). -/
  | gf8inv (rd rs1 : EReg)
  /-- GFMADD Ed, Es1, Es2 (R157). -/
  | gfmadd (rd rs1 rs2 : EReg)
  /-- GFMMUL Ed, Es1, Es2 (R158). -/
  | gfmmul (rd rs1 rs2 : EReg)
  /-- GFMSQR Ed, Es1 (R159). -/
  | gfmsqr (rd rs1 : EReg)
  /-- GFMINV Ed, Es1 (R160). -/
  | gfminv (rd rs1 : EReg)
  /-- GFMRED Ed, Es1, where s1 is even and names the pair (E[s1+1], E[s1]) (R163). -/
  | gfmred (rd rs1 : EReg)
  /-- KEYEXP (R241). -/
  | keyexp
  /-- ENC (R212). -/
  | enc
  /-- DEC (R213). -/
  | dec
  /-- SPNSB (R206). -/
  | spnsb
  /-- SPNISB (R207). -/
  | spnisb
  /-- SPNSR (R208). -/
  | spnsr
  /-- SPNISR (R209). -/
  | spnisr
  /-- SPNMC (R210). -/
  | spnmc
  /-- SPNIMC (R211). -/
  | spnimc
  /-- HINIT (R280). -/
  | hinit
  /-- HUPD (R281). -/
  | hupd
  /-- HFIN n, with the 6-bit byte count n = LEN (R124, R283). -/
  | hfin (len : Fin 64)
  /-- PADD Pd, Ps1, Ps2 (R310). -/
  | padd (pd ps1 ps2 : PReg)
  /-- PDBL Pd, Ps1 (R311). -/
  | pdbl (pd ps1 : PReg)
  /-- PNEG Pd, Ps1 (R312). -/
  | pneg (pd ps1 : PReg)
  /-- PCHK Ps1 (R313). -/
  | pchk (ps1 : PReg)
  /-- SMUL Pd, Ps1, Es2: the scalar is the element register Es2 (R314). -/
  | smul (pd ps1 : PReg) (rs2 : EReg)
  /-- CFGLOCK (R343). -/
  | cfglock
  deriving DecidableEq, Repr

end Sys2Proof
end

