-- ==== Sys2Proof/Machine/Dispatch.lean ====
section
/-! DEFINITION. exec: one arm per command, in the table's order. It is the completion step of the command (R347). -/

namespace Sys2Proof.Machine

def exec (i : Instr) (s : State) : Host.Outcome State Fault Refusal :=
  match i with
  | .nop => Sys2Proof.Machine.execNop s
  | .gf8mul rd rs1 rs2 => Sys2Proof.Machine.execGf8mul rd rs1 rs2 s
  | .gf8inv rd rs1 => Sys2Proof.Machine.execGf8inv rd rs1 s
  | .gfmadd rd rs1 rs2 => Sys2Proof.Machine.execGfmadd rd rs1 rs2 s
  | .gfmmul rd rs1 rs2 => Sys2Proof.Machine.execGfmmul rd rs1 rs2 s
  | .gfmsqr rd rs1 => Sys2Proof.Machine.execGfmsqr rd rs1 s
  | .gfminv rd rs1 => Sys2Proof.Machine.execGfminv rd rs1 s
  | .gfmred rd rs1 => Sys2Proof.Machine.execGfmred rd rs1 s
  | .keyexp => Sys2Proof.Machine.execKeyexp s
  | .enc => Sys2Proof.Machine.execEnc s
  | .dec => Sys2Proof.Machine.execDec s
  | .spnsb => Sys2Proof.Machine.execSpnsb s
  | .spnisb => Sys2Proof.Machine.execSpnisb s
  | .spnsr => Sys2Proof.Machine.execSpnsr s
  | .spnisr => Sys2Proof.Machine.execSpnisr s
  | .spnmc => Sys2Proof.Machine.execSpnmc s
  | .spnimc => Sys2Proof.Machine.execSpnimc s
  | .hinit => Sys2Proof.Machine.execHinit s
  | .hupd => Sys2Proof.Machine.execHupd s
  | .hfin len => Sys2Proof.Machine.execHfin len s
  | .padd pd ps1 ps2 => Sys2Proof.Machine.execPadd pd ps1 ps2 s
  | .pdbl pd ps1 => Sys2Proof.Machine.execPdbl pd ps1 s
  | .pneg pd ps1 => Sys2Proof.Machine.execPneg pd ps1 s
  | .pchk ps1 => Sys2Proof.Machine.execPchk ps1 s
  | .smul pd ps1 rs2 => Sys2Proof.Machine.execSmul pd ps1 rs2 s
  | .cfglock => Sys2Proof.Machine.execCfglock s

end Sys2Proof.Machine
end

