-- ==== Sys2Proof/WellFormed.lean ====
section
/-! DEFINITION. Which terms of `Instr` have an encoding (spec 30_encoding.md R121, R122, R123). The operand types already bound the
register numbers and LEN; what is left is GFMRED's even RS1. -/

namespace Sys2Proof

/-- An element register that names a pair is even: "RS1[0] must be 0" (R122, R163). -/
def evenReg (r : EReg) : Bool := r.val % 2 == 0

/-- The command has an encoding (R122). -/
def Instr.wf : Instr → Bool
  | .nop => true
  | .gf8mul _ _ _ => true
  | .gf8inv _ _ => true
  | .gfmadd _ _ _ => true
  | .gfmmul _ _ _ => true
  | .gfmsqr _ _ => true
  | .gfminv _ _ => true
  | .gfmred _ rs1 => evenReg rs1
  | .keyexp => true
  | .enc => true
  | .dec => true
  | .spnsb => true
  | .spnisb => true
  | .spnsr => true
  | .spnisr => true
  | .spnmc => true
  | .spnimc => true
  | .hinit => true
  | .hupd => true
  | .hfin _ => true
  | .padd _ _ _ => true
  | .pdbl _ _ => true
  | .pneg _ _ => true
  | .pchk _ => true
  | .smul _ _ _ => true
  | .cfglock => true

end Sys2Proof
end

