-- ==== Sys2Proof/Decode.lean ====
section
/-! DEFINITION. The decoder and the encoder of the 32-bit command word, and the assembler's spelling of a command
(spec 30_encoding.md R120 to R130). -/

namespace Sys2Proof

/-- Why a word is illegal (R128): its OP is in no row of R126, or a must-be-zero bit of its format is 1. -/
inductive DecodeError where
  /-- OP is not in R126. -/
  | unassignedOpcode (op : Nat)
  /-- OP names a command, but a bit its format requires to be zero is 1 (R122). -/
  | mustBeZero (op : Nat)
  deriving DecidableEq, Repr

/-- The nine formats of R122. -/
inductive Format where
  | N | L | E3 | E2 | E2P | P3 | P2 | P1 | PS
  deriving DecidableEq, Repr

/-- `v[hi:lo]` of R10: bits hi down to lo, inclusive, as an unsigned value. -/
def bits (w : Word) (hi lo : Nat) : Nat := w.toNat / 2 ^ lo % 2 ^ (hi + 1 - lo)

/-- The format's must-be-zero bits are zero (R121, R122). -/
def Format.clear (w : Word) : Format → Bool
  | .N => bits w 31 8 == 0
  | .L => bits w 31 26 == 0 && bits w 19 8 == 0
  | .E3 => bits w 31 20 == 0
  | .E2 => bits w 31 16 == 0
  | .E2P => bits w 31 16 == 0 && bits w 12 12 == 0
  | .P3 => bits w 31 20 == 0 && bits w 19 19 == 0 && bits w 15 15 == 0 && bits w 11 11 == 0
  | .P2 => bits w 31 16 == 0 && bits w 15 15 == 0 && bits w 11 11 == 0
  | .P1 => bits w 31 16 == 0 && bits w 15 15 == 0 && bits w 11 8 == 0
  | .PS => bits w 31 20 == 0 && bits w 15 15 == 0 && bits w 11 11 == 0

/-- OP, bits 7:0 (R121). -/
def fieldOp (w : Word) : Nat := bits w 7 0

/-- RD, bits 11:8 (R121). -/
def fieldRd (w : Word) : EReg := Fin.ofNat 16 (bits w 11 8)

/-- RS1, bits 15:12 (R121). -/
def fieldRs1 (w : Word) : EReg := Fin.ofNat 16 (bits w 15 12)

/-- RS2, bits 19:16 (R121). -/
def fieldRs2 (w : Word) : EReg := Fin.ofNat 16 (bits w 19 16)

/-- PD = RD[2:0] (R121). -/
def fieldPd (w : Word) : PReg := Fin.ofNat 8 (bits w 10 8)

/-- PS1 = RS1[2:0] (R121). -/
def fieldPs1 (w : Word) : PReg := Fin.ofNat 8 (bits w 14 12)

/-- PS2 = RS2[2:0] (R121). -/
def fieldPs2 (w : Word) : PReg := Fin.ofNat 8 (bits w 18 16)

/-- LEN, bits 25:20 (R121, R124). -/
def fieldLen (w : Word) : Fin 64 := Fin.ofNat 64 (bits w 25 20)

/-- The command `i` if the format's must-be-zero bits are zero, else the word is illegal (R122, R128). -/
def decodeAs (w : Word) (f : Format) (i : Instr) : Except DecodeError Instr :=
  if f.clear w then .ok i else .error (.mustBeZero (fieldOp w))

/-- The decoder, total on every 32-bit word (R126, R128, R129). -/
def decode (w : Word) : Except DecodeError Instr :=
  match fieldOp w with
  | 0x00 => decodeAs w .N .nop
  | 0x01 => decodeAs w .E3 (.gf8mul (fieldRd w) (fieldRs1 w) (fieldRs2 w))
  | 0x02 => decodeAs w .E2 (.gf8inv (fieldRd w) (fieldRs1 w))
  | 0x10 => decodeAs w .E3 (.gfmadd (fieldRd w) (fieldRs1 w) (fieldRs2 w))
  | 0x11 => decodeAs w .E3 (.gfmmul (fieldRd w) (fieldRs1 w) (fieldRs2 w))
  | 0x12 => decodeAs w .E2 (.gfmsqr (fieldRd w) (fieldRs1 w))
  | 0x13 => decodeAs w .E2 (.gfminv (fieldRd w) (fieldRs1 w))
  | 0x14 => decodeAs w .E2P (.gfmred (fieldRd w) (fieldRs1 w))
  | 0x20 => decodeAs w .N .keyexp
  | 0x21 => decodeAs w .N .enc
  | 0x22 => decodeAs w .N .dec
  | 0x28 => decodeAs w .N .spnsb
  | 0x29 => decodeAs w .N .spnisb
  | 0x2A => decodeAs w .N .spnsr
  | 0x2B => decodeAs w .N .spnisr
  | 0x2C => decodeAs w .N .spnmc
  | 0x2D => decodeAs w .N .spnimc
  | 0x30 => decodeAs w .N .hinit
  | 0x31 => decodeAs w .N .hupd
  | 0x32 => decodeAs w .L (.hfin (fieldLen w))
  | 0x40 => decodeAs w .P3 (.padd (fieldPd w) (fieldPs1 w) (fieldPs2 w))
  | 0x41 => decodeAs w .P2 (.pdbl (fieldPd w) (fieldPs1 w))
  | 0x42 => decodeAs w .P2 (.pneg (fieldPd w) (fieldPs1 w))
  | 0x43 => decodeAs w .P1 (.pchk (fieldPs1 w))
  | 0x44 => decodeAs w .PS (.smul (fieldPd w) (fieldPs1 w) (fieldRs2 w))
  | 0x50 => decodeAs w .N .cfglock
  | op => .error (.unassignedOpcode op)

/-- OP(c) (R126). -/
def Instr.opcode : Instr → Nat
  | .nop => 0x00
  | .gf8mul _ _ _ => 0x01
  | .gf8inv _ _ => 0x02
  | .gfmadd _ _ _ => 0x10
  | .gfmmul _ _ _ => 0x11
  | .gfmsqr _ _ => 0x12
  | .gfminv _ _ => 0x13
  | .gfmred _ _ => 0x14
  | .keyexp => 0x20
  | .enc => 0x21
  | .dec => 0x22
  | .spnsb => 0x28
  | .spnisb => 0x29
  | .spnsr => 0x2A
  | .spnisr => 0x2B
  | .spnmc => 0x2C
  | .spnimc => 0x2D
  | .hinit => 0x30
  | .hupd => 0x31
  | .hfin _ => 0x32
  | .padd _ _ _ => 0x40
  | .pdbl _ _ => 0x41
  | .pneg _ _ => 0x42
  | .pchk _ => 0x43
  | .smul _ _ _ => 0x44
  | .cfglock => 0x50

/-- The command's format (R126). -/
def Instr.format : Instr → Format
  | .nop => .N
  | .gf8mul _ _ _ => .E3
  | .gf8inv _ _ => .E2
  | .gfmadd _ _ _ => .E3
  | .gfmmul _ _ _ => .E3
  | .gfmsqr _ _ => .E2
  | .gfminv _ _ => .E2
  | .gfmred _ _ => .E2P
  | .keyexp => .N
  | .enc => .N
  | .dec => .N
  | .spnsb => .N
  | .spnisb => .N
  | .spnsr => .N
  | .spnisr => .N
  | .spnmc => .N
  | .spnimc => .N
  | .hinit => .N
  | .hupd => .N
  | .hfin _ => .L
  | .padd _ _ _ => .P3
  | .pdbl _ _ => .P2
  | .pneg _ _ => .P2
  | .pchk _ => .P1
  | .smul _ _ _ => .PS
  | .cfglock => .N

/-- The format's mask (R122). -/
def Format.mask : Format → Word
  | .N => 0xFFFFFFFF#32
  | .L => 0xFC0FFFFF#32
  | .E3 => 0xFFF000FF#32
  | .E2 => 0xFFFF00FF#32
  | .E2P => 0xFFFF10FF#32
  | .P3 => 0xFFF888FF#32
  | .P2 => 0xFFFF88FF#32
  | .P1 => 0xFFFF8FFF#32
  | .PS => 0xFFF088FF#32

/-- `OP | RD << 8 | RS1 << 12 | RS2 << 16 | LEN << 20` (R130): the fields do not overlap, so the sum is the OR. -/
def assemble (op rd rs1 rs2 len : Nat) : Word :=
  BitVec.ofNat 32 (op + rd * 2 ^ 8 + rs1 * 2 ^ 12 + rs2 * 2 ^ 16 + len * 2 ^ 20)

/-- The encoder: the word of a well-formed command, "with unused fields zero and Pk encoded as k" (R130). -/
def encode (i : Instr) : Word :=
  match i with
  | .nop => assemble 0x00 0 0 0 0
  | .gf8mul rd rs1 rs2 => assemble 0x01 rd rs1 rs2 0
  | .gf8inv rd rs1 => assemble 0x02 rd rs1 0 0
  | .gfmadd rd rs1 rs2 => assemble 0x10 rd rs1 rs2 0
  | .gfmmul rd rs1 rs2 => assemble 0x11 rd rs1 rs2 0
  | .gfmsqr rd rs1 => assemble 0x12 rd rs1 0 0
  | .gfminv rd rs1 => assemble 0x13 rd rs1 0 0
  | .gfmred rd rs1 => assemble 0x14 rd rs1 0 0
  | .keyexp => assemble 0x20 0 0 0 0
  | .enc => assemble 0x21 0 0 0 0
  | .dec => assemble 0x22 0 0 0 0
  | .spnsb => assemble 0x28 0 0 0 0
  | .spnisb => assemble 0x29 0 0 0 0
  | .spnsr => assemble 0x2A 0 0 0 0
  | .spnisr => assemble 0x2B 0 0 0 0
  | .spnmc => assemble 0x2C 0 0 0 0
  | .spnimc => assemble 0x2D 0 0 0 0
  | .hinit => assemble 0x30 0 0 0 0
  | .hupd => assemble 0x31 0 0 0 0
  | .hfin len => assemble 0x32 0 0 0 len
  | .padd pd ps1 ps2 => assemble 0x40 pd ps1 ps2 0
  | .pdbl pd ps1 => assemble 0x41 pd ps1 0 0
  | .pneg pd ps1 => assemble 0x42 pd ps1 0 0
  | .pchk ps1 => assemble 0x43 0 ps1 0 0
  | .smul pd ps1 rs2 => assemble 0x44 pd ps1 rs2 0
  | .cfglock => assemble 0x50 0 0 0 0

/-- The command the decoder reads from a table row's bits: bit 0 of `w` is bit 0 of the command word, and every bit from
`nbits` up is 0. A command is one 32-bit bus word, so there is no byte order to apply (R86, R120). -/
def decodeTableWord (nbits w : Nat) : Option Instr :=
  (decode (BitVec.ofNat 32 (w % 2 ^ nbits))).toOption

/-- `E0`..`E15` (R130). -/
def asmE (r : EReg) : String := "E" ++ toString r.val

/-- `P0`..`P7` (R130). -/
def asmP (k : PReg) : String := "P" ++ toString k.val

/-- The assembler's spelling: the mnemonic, then the operands in field order, separated by commas (R130). -/
def Instr.asm : Instr → String
  | .nop => "NOP"
  | .gf8mul rd rs1 rs2 => "GF8MUL " ++ asmE rd ++ ", " ++ asmE rs1 ++ ", " ++ asmE rs2
  | .gf8inv rd rs1 => "GF8INV " ++ asmE rd ++ ", " ++ asmE rs1
  | .gfmadd rd rs1 rs2 => "GFMADD " ++ asmE rd ++ ", " ++ asmE rs1 ++ ", " ++ asmE rs2
  | .gfmmul rd rs1 rs2 => "GFMMUL " ++ asmE rd ++ ", " ++ asmE rs1 ++ ", " ++ asmE rs2
  | .gfmsqr rd rs1 => "GFMSQR " ++ asmE rd ++ ", " ++ asmE rs1
  | .gfminv rd rs1 => "GFMINV " ++ asmE rd ++ ", " ++ asmE rs1
  | .gfmred rd rs1 => "GFMRED " ++ asmE rd ++ ", " ++ asmE rs1
  | .keyexp => "KEYEXP"
  | .enc => "ENC"
  | .dec => "DEC"
  | .spnsb => "SPNSB"
  | .spnisb => "SPNISB"
  | .spnsr => "SPNSR"
  | .spnisr => "SPNISR"
  | .spnmc => "SPNMC"
  | .spnimc => "SPNIMC"
  | .hinit => "HINIT"
  | .hupd => "HUPD"
  | .hfin len => "HFIN " ++ toString len.val
  | .padd pd ps1 ps2 => "PADD " ++ asmP pd ++ ", " ++ asmP ps1 ++ ", " ++ asmP ps2
  | .pdbl pd ps1 => "PDBL " ++ asmP pd ++ ", " ++ asmP ps1
  | .pneg pd ps1 => "PNEG " ++ asmP pd ++ ", " ++ asmP ps1
  | .pchk ps1 => "PCHK " ++ asmP ps1
  | .smul pd ps1 rs2 => "SMUL " ++ asmP pd ++ ", " ++ asmP ps1 ++ ", " ++ asmE rs2
  | .cfglock => "CFGLOCK"

end Sys2Proof
end

