-- ==== Sys2Proof/Machine/Flags.lean ====
section
/-! DEFINITION. The flags as the host sees them: the words of STATUS, SCHED, IRQ_EN, IRQ_STAT and the other 32-bit registers, and
the interrupt output (spec R32, R33, R37, R40, R41, R43, R46 to R51, R360, R370 to R372). -/

namespace Sys2Proof.Machine

/-- The number of a completion code (R360). -/
def ErrCode.code : ErrCode → Nat
  | .ok => 0
  | .illegalCmd => 1
  | .notReady => 2
  | .invalidKeySize => 3
  | .invalidLength => 4
  | .invalidOperand => 5
  | .pointNotOnCurve => 6
  | .badConfig => 7

/-- The number of a hash lifecycle state (R45). -/
def HashLife.code : HashLife → Nat
  | .idle => 0
  | .active => 1
  | .final => 2

/-- STATUS: BUSY 0, DONE 1, ERR 7:4, SVALID 8, HST 10:9, LOCK 11, ONC 12, WERR 13, every other bit zero (R47). -/
def State.statusWord (s : State) : Word :=
  BitVec.ofNat 32
    (s.busy.toNat + s.done.toNat * 2 ^ 1 + s.err.code * 2 ^ 4 + s.schedValid.toNat * 2 ^ 8
      + s.hst.code * 2 ^ 9 + s.lock.toNat * 2 ^ 11 + s.onc.toNat * 2 ^ 12 + s.werr.toNat * 2 ^ 13)

/-- SCHED: VALID 0, BLK 2:1, KLEN 5:4, NR 12:8, every other bit zero (R43). -/
def State.schedWord (s : State) : Word :=
  BitVec.ofNat 32
    (s.schedValid.toNat + s.schedBlk.toNat * 2 ^ 1 + s.schedKlen.toNat * 2 ^ 4 + s.schedNr.toNat * 2 ^ 8)

/-- KCFG: BLK 1:0, KLEN 5:4, every other bit zero (R40). -/
def State.kcfgWord (s : State) : Word :=
  BitVec.ofNat 32 (s.kcfgBlk.toNat + s.kcfgKlen.toNat * 2 ^ 4)

/-- CURVE_M: M 9:0, every other bit zero (R41). -/
def State.curveMWord (s : State) : Word := s.curveM.setWidth 32

/-- PINF: the INF flags in bits 7:0, every other bit zero (R37). -/
def State.pinfWord (s : State) : Word := s.pinf.setWidth 32

/-- IRQ_EN: DONE_EN 0, ERR_EN 1, every other bit zero (R49). -/
def State.irqEnWord (s : State) : Word :=
  BitVec.ofNat 32 (s.irqDoneEn.toNat + s.irqErrEn.toNat * 2 ^ 1)

/-- IRQ_STAT: DONE 0, ERR 1, every other bit zero (R50). -/
def State.irqStatWord (s : State) : Word :=
  BitVec.ofNat 32 (s.irqDone.toNat + s.irqErr.toNat * 2 ^ 1)

/-- The interrupt output, a level (R370). -/
def State.irq (s : State) : Bool := (s.irqDone && s.irqDoneEn) || (s.irqErr && s.irqErrEn)

/-- The platform interrupt inputs that UKC drives high: IRQ leaves UKC as one wire, to the input IRQ_LINE (R372). -/
def State.irqInput (s : State) (line : Nat) : Bool := line == Config.irqLine && s.irq

end Sys2Proof.Machine
end

