-- ==== Sys2Proof/Machine/Window.lean ====
section
/-! DEFINITION. The 4 KiB register window: its map, and what one accepted 32-bit read or write of an offset does, under BUSY and LOCK
(spec 20_memory.md R81 to R94; 10_state.md for each register). -/

namespace Sys2Proof.Machine

/-- What stands at a word-aligned offset of the window (R84). `w` is the word index inside a wide register. -/
inductive WindowReg where
  | id | version | ctrl | status | cmd | irqEn | irqStat | kcfg | curveM | pinf | sched
  | key (w : Nat) | block (w : Nat)
  | hiv (w : Nat) | hmsg (w : Nat) | hh (w : Nat) | hsig (w : Nat) | hlen (w : Nat)
  | cf (w : Nat) | ca (w : Nat) | cb (w : Nat) | cn (w : Nat)
  | elem (i : EReg) (w : Nat)
  | rk (i : Nat) (w : Nat)
  | reserved
  deriving DecidableEq, Repr

/-- The offset of an address in the window, address - BASE in 0x000..0xFFF; `none` outside the window (R81). -/
def windowOffset (addr : Nat) : Option Nat :=
  if base ≤ addr ∧ addr < base + 0x1000 then some (addr - base) else none

/-- The 32-bit registers 0x000 to 0x028 (R84). -/
def controlReg (n : Nat) : WindowReg :=
  match n with
  | 0 => .id
  | 1 => .version
  | 2 => .ctrl
  | 3 => .status
  | 4 => .cmd
  | 5 => .irqEn
  | 6 => .irqStat
  | 7 => .kcfg
  | 8 => .curveM
  | 9 => .pinf
  | 10 => .sched
  | _ => .reserved

/-- The register window map (R84). -/
def windowReg (off : Nat) : WindowReg :=
  if off < 0x100 then controlReg (off / 4)
  else if off < 0x140 then .key ((off - 0x100) / 4)
  else if off < 0x180 then .block ((off - 0x140) / 4)
  else if off < 0x1A0 then .hiv ((off - 0x180) / 4)
  else if off < 0x1C0 then .hmsg ((off - 0x1A0) / 4)
  else if off < 0x1E0 then .hh ((off - 0x1C0) / 4)
  else if off < 0x200 then .hsig ((off - 0x1E0) / 4)
  else if off < 0x220 then .hlen ((off - 0x200) / 4)
  else if off < 0x300 then .reserved
  else if off < 0x340 then .cf ((off - 0x300) / 4)
  else if off < 0x380 then .ca ((off - 0x340) / 4)
  else if off < 0x3C0 then .cb ((off - 0x380) / 4)
  else if off < 0x400 then .cn ((off - 0x3C0) / 4)
  else if off < 0x800 then .elem (Fin.ofNat 16 ((off - 0x400) / 0x40)) ((off - 0x400) % 0x40 / 4)
  else if off < 0xCC0 then .rk ((off - 0x800) / 0x40) ((off - 0x800) % 0x40 / 4)
  else .reserved

/-- An access is accepted if it is 32-bit and aligned; any other fails with a bus error (R82). -/
def accessOk (off size : Nat) : Bool := size == 4 && off % 4 == 0

/-! ### Reads -/

/-- The current value of the register or field at a place of the window (R86, R89); CTRL and reserved offsets read zero
(R46, R85). -/
def State.readReg (s : State) : WindowReg → Word
  | .id => idValue
  | .version => versionValue
  | .ctrl => 0#32
  | .status => s.statusWord
  | .cmd => s.cmd
  | .irqEn => s.irqEnWord
  | .irqStat => s.irqStatWord
  | .kcfg => s.kcfgWord
  | .curveM => s.curveMWord
  | .pinf => s.pinfWord
  | .sched => s.schedWord
  | .key w => wordAt s.key w
  | .block w => wordAt s.block w
  | .hiv w => wordAt s.hiv w
  | .hmsg w => wordAt s.hmsg w
  | .hh w => wordAt s.hh w
  | .hsig w => wordAt s.hsig w
  | .hlen w => wordAt s.hlen w
  | .cf w => wordAt s.cf w
  | .ca w => wordAt s.ca w
  | .cb w => wordAt s.cb w
  | .cn w => wordAt s.cn w
  | .elem i w => wordAt (s.getE i) w
  | .rk i w => wordAt (s.getRk i) w
  | .reserved => 0#32

/-- The places whose reads are exact while BUSY = 1 (R92). -/
def WindowReg.exactWhileBusy : WindowReg → Bool
  | .id | .version | .ctrl | .status | .cmd | .irqEn | .irqStat | .reserved => true
  | .kcfg | .curveM | .pinf | .sched | .key _ | .block _ | .hiv _ | .hmsg _ | .hh _ | .hsig _ | .hlen _
  | .cf _ | .ca _ | .cb _ | .cn _ | .elem _ _ | .rk _ _ => false

/-- An accepted read of a place: its value, and the state after it. "Reads have no side effects" (R88); while BUSY = 1 a
place that is not exact returns an unspecified value, drawn freshly for each read (R92, U4), and only the model's count
of draws moves on. -/
def State.readWindow (s : State) (r : WindowReg) : Word × State :=
  if s.busy && !r.exactWhileBusy then (Config.busyRead s.draws, { s with draws := s.draws + 1 })
  else (s.readReg r, s)

/-! ### Writes -/

/-- A write of a command input: while BUSY = 1 it is ignored and sets WERR, else it has the effect `t` (R93). -/
def State.ifIdle (s t : State) : State := if s.busy then { s with werr := true } else t

/-- A write of the curve configuration: ignored, setting WERR, while BUSY or LOCK is 1 (R93, R94). -/
def State.ifUnlocked (s t : State) : State := if s.busy || s.lock then { s with werr := true } else t

/-- A write of CTRL, in effect also while BUSY: SRST is the soft reset, CLRWERR clears WERR; with both, the reset happens
and WERR is zero after it (R46, R348, R401). -/
def State.writeCtrl (s : State) (v : Word) : State :=
  if v.getLsbD 0 then s.resetUnit
  else if v.getLsbD 1 then { s with werr := false }
  else s

/-- An accepted write of the word v to a place of the window (R83, R85, R88, R93, R94). -/
def State.writeReg (s : State) (r : WindowReg) (v : Word) : State :=
  match r with
  | .ctrl => s.writeCtrl v
  | .irqEn => { s with irqDoneEn := v.getLsbD 0, irqErrEn := v.getLsbD 1 }
  | .irqStat => { s with irqDone := s.irqDone && !v.getLsbD 0, irqErr := s.irqErr && !v.getLsbD 1 }
  | .cmd => s.ifIdle (s.accept v)
  | .kcfg => s.ifIdle { s with kcfgBlk := v.extractLsb' 0 2, kcfgKlen := v.extractLsb' 4 2 }
  | .pinf => s.ifIdle { s with pinf := v.setWidth 8 }
  | .key w => s.ifIdle { s with key := putWord s.key w v }
  | .block w => s.ifIdle { s with block := putWord s.block w v }
  | .hiv w => s.ifIdle { s with hiv := putWord s.hiv w v }
  | .hmsg w => s.ifIdle { s with hmsg := putWord s.hmsg w v }
  | .elem i w => s.ifIdle (s.setE i (putWord (s.getE i) w v))
  | .curveM => s.ifUnlocked { s with curveM := v.setWidth 10 }
  | .cf w => s.ifUnlocked { s with cf := putWord s.cf w v }
  | .ca w => s.ifUnlocked { s with ca := putWord s.ca w v }
  | .cb w => s.ifUnlocked { s with cb := putWord s.cb w v }
  | .cn w => s.ifUnlocked { s with cn := putWord s.cn w v }
  | .id => s
  | .version => s
  | .status => s
  | .sched => s
  | .hh _ => s
  | .hsig _ => s
  | .hlen _ => s
  | .rk _ _ => s
  | .reserved => s

end Sys2Proof.Machine
end

