-- ==== Sys2Proof/Machine/HostAgent.lean ====
section
/-! DEFINITION. The host as an agent: what serving its next operation does (spec 20_memory.md R82, R96, R101; 45_control.md R348;
70_reset_and_hazards.md R400), and the program notation of 30_encoding.md R131. -/

namespace Sys2Proof.Machine

/-- One host operation has been served: it leaves the port, and one less may come before the completion of a command in
flight (log entries 1 and 2). -/
def State.take (s : State) (rest : List HostOp) : State :=
  { s with port := rest, delay := s.delay - 1 }

/-- A read access that reaches the window: its value, or a bus error, with no change of UKC's state (R82). -/
def serveRead (s : State) (off size : Nat) : State :=
  if accessOk off size then
    let (v, t) := s.readWindow (windowReg off)
    { t with answer := some (.data v) }
  else { s with answer := some (.readError 0#32) }

/-- A write access that reaches the window, or its bus error (R82). -/
def serveWrite (s : State) (off size : Nat) (v : Word) : State :=
  if accessOk off size then { s.writeReg (windowReg off) v with answer := some .written }
  else { s with answer := some .writeError }

/-- WAIT's read of STATUS: "if bit 0 of the value is 1, go to L" (R131), so the operation stays at the port while BUSY. -/
def serveWait (s : State) (rest : List HostOp) : State :=
  let t := s.take (if s.busy then .wait :: rest else rest)
  { t with answer := some (.data s.statusWord) }

/-- Hard reset (R400): the whole unit, whatever it is doing; the access in progress, if any, has no answer. -/
def serveHardReset (s : State) : State := s.resetUnit

/-- The host's turn: the oldest operation at the port is served, complete before the next (R96). With nothing at the port
and no command in flight, UKC waits and nothing changes (log entry 14). -/
def hostTurn (s : State) : Result :=
  match s.port with
  | [] => .next s
  | .read addr size :: rest =>
    match windowOffset addr with
    | none => .fault (.outsideWindow addr)
    | some off => .next (serveRead (s.take rest) off size)
  | .write addr size v :: rest =>
    match windowOffset addr with
    | none => .fault (.outsideWindow addr)
    | some off => .next (serveWrite (s.take rest) off size v)
  | .wait :: rest => .next (serveWait s rest)
  | .check addr mask v :: rest =>
    match windowOffset addr with
    | none => .fault (.outsideWindow addr)
    | some off =>
      let t := serveRead (s.take rest) off 4
      match t.answer with
      | some (.data got) => if got &&& mask = v then .next t else .fault (.checkFailed got)
      | _ => .fault (.checkFailed 0#32)
  | .hardReset :: rest => .next (serveHardReset (s.take rest))

/-! ### Host programs (R131) -/

/-- `W32 off, v`. -/
def progW32 (off : Nat) (v : Word) : List HostOp := [.write (base + off) 4 v]

/-- `R32 off`. -/
def progR32 (off : Nat) : List HostOp := [.read (base + off) 4]

/-- `CMD <command>`: W32 0x010, enc(<command>). -/
def progCmd (i : Instr) : List HostOp := progW32 0x010 (encode i)

/-- `WAIT`. -/
def progWait : List HostOp := [.wait]

/-- `WBUF off, b0 .. b(n-1)`, n a multiple of 4, in increasing order of words. -/
def progWbuf (off : Nat) (bs : Bytes) : List HostOp :=
  (List.range (bs.length / 4)).flatMap fun w =>
    progW32 (off + 4 * w) (BitVec.ofNat 32 (intOf ((bs.drop (4 * w)).take 4)))

/-- `RBUF off, n`. -/
def progRbuf (off n : Nat) : List HostOp :=
  (List.range (n / 4)).flatMap fun w => progR32 (off + 4 * w)

/-- `CHECK off, mask, v`. -/
def progCheck (off : Nat) (mask v : Word) : List HostOp := [.check (base + off) mask v]

/-- `CMD <command>`, then `WAIT`: "Each step begins only after the previous command has completed" (R404). -/
def progRun (i : Instr) : List HostOp := progCmd i ++ progWait

/-- Step 2 of the host's initialisation: the field and curve configuration, then CFGLOCK with its check ERR = 0 and
LOCK = 1 (R404). -/
def progCurveConfig (m : BitVec 10) (f a b n : Elem) : List HostOp :=
  progW32 0x020 (m.setWidth 32) ++ progWbuf 0x300 (bytesOf 64 f) ++ progWbuf 0x340 (bytesOf 64 a)
    ++ progWbuf 0x380 (bytesOf 64 b) ++ progWbuf 0x3C0 (bytesOf 64 n) ++ progRun .cfglock
    ++ progCheck 0x00C 0x8F0#32 0x800#32

/-- Step 3 of the host's initialisation: KCFG and KEY, then KEYEXP with its check ERR = 0 (R404). -/
def progCipherConfig (kcfg : Word) (key : Elem) : List HostOp :=
  progW32 0x01C kcfg ++ progWbuf 0x100 (bytesOf 64 key) ++ progRun .keyexp ++ progCheck 0x00C 0xF0#32 0x000#32

/-- The number of HUPD blocks of a message: "q <- (l - 1) div 32 if l > 0, else 0" (R284). -/
def hashBlocks (m : Bytes) : Nat := (m.length - 1) / 32

/-- `HASH(m, v)` (R284): HIV, HINIT, a HUPD for each full block but the last bytes, HFIN n for the last n = 0..32 bytes, and
the digest read from HH. The last bytes are written in whole words, filled with zero bytes that HFIN does not read. -/
def progHash (m v : Bytes) : List HostOp :=
  let q := hashBlocks m
  let last := m.drop (32 * q)
  progWbuf 0x180 v ++ progRun .hinit
    ++ (List.range q).flatMap (fun b => progWbuf 0x1A0 ((m.drop (32 * b)).take 32) ++ progRun .hupd)
    ++ progWbuf 0x1A0 (last ++ List.replicate ((4 - last.length % 4) % 4) 0#8)
    ++ progRun (.hfin (Fin.ofNat 64 last.length)) ++ progRbuf 0x1C0 32

/-- A host program has ended "when its last operation has been performed and STATUS.BUSY = 0" (R421). -/
def State.programEnded (s : State) : Bool := s.port.isEmpty && !s.busy

end Sys2Proof.Machine
end

