-- ==== Sys2Proof/Machine/Lifecycle.lean ====
section
/-! DEFINITION. Which agent moves next, and the completion step of the command in flight (spec 45_control.md R346 to R348;
70_reset_and_hazards.md R416, R420; 60_exceptions.md R376). -/

namespace Sys2Proof.Machine

/-- A hard reset is asserted now: it "wins over everything" (R376). -/
def State.hardResetNow (s : State) : Bool :=
  match s.port with
  | .hardReset :: _ => true
  | _ => false

/-- The core takes its completion step now: a command is in flight, and the host operations that come before the
completion have been served, or none is left (R347, R416, R420; log entry 2). -/
def State.coreMoves (s : State) : Bool :=
  s.busy && !s.hardResetNow && (s.delay == 0 || s.port.isEmpty)

/-- The completion step: decode CMD and evaluate the command's rule, or complete with ILLEGAL_CMD (R128, R347). -/
def completeCommand (s : State) : Result :=
  match decode s.cmd with
  | .ok i => exec i s
  | .error _ => .next (s.raise .illegalCmd)

/-- The state in which the word w has been accepted and the core completes it next: CMD, BUSY, DONE and ERR as
acceptance leaves them (R346), no host operation before the completion, and no hard reset asserted (log entry 8). -/
def State.withCommand (s : State) (w : Word) : State :=
  { s with
    cmd := w
    busy := true
    done := false
    err := .ok
    delay := 0
    port := s.port.dropWhile fun op => op == .hardReset }

end Sys2Proof.Machine
end

