-- ==== Sys2Proof/Machine/Step.lean ====
section
/-! DEFINITION. One step of UKC and its host: the core completes the command in flight, or the host's next operation is served
(spec 10_state.md R30; 20_memory.md R96; 70_reset_and_hazards.md R416). -/

namespace Sys2Proof.Machine

/-- One step. -/
def step (s : State) : Host.Outcome State Fault Refusal :=
  if s.coreMoves then completeCommand s else hostTurn s

/-- `s` with the command word of a table row's bits accepted, so that the next step decodes and completes it; the bits from
`nbits` up are 0. UKC fetches nothing (R31): a program comes to run as log entry 8 says. -/
def State.withFetchWord (s : State) (nbits w : Nat) : State :=
  s.withCommand (BitVec.ofNat 32 (w % 2 ^ nbits))

end Sys2Proof.Machine
end

