-- ==== Sys2Proof/Safety.lean ====
section
/-! DEFINITION. What a legal state and a well-behaved host are, and the spec's notions that the statements use in words of their
own: divisibility of binary polynomials, the curve equation, the opcode rows. -/

namespace Sys2Proof.Machine

/-! ### Legal states -/

/-- SCHED and RK are what reset or a successful KEYEXP leaves: a valid schedule is a row of R240, with slot i > R and every
byte from B/8 up zero; without one, SCHED and RK are all zero (R42, R43, R250). -/
def ScheduleOk (s : State) : Prop :=
  if s.schedValid then
    ∃ row, keyRow s.schedBlk s.schedKlen = some row ∧ s.schedNr.toNat = row.rounds
      ∧ ∀ i, (s.getRk i).toNat < 2 ^ (64 * row.nb) ∧ (row.rounds < i → s.getRk i = 0#512)
  else
    s.schedBlk = 0#2 ∧ s.schedKlen = 0#2 ∧ s.schedNr = 0#5 ∧ ∀ i, s.getRk i = 0#512

/-- The curve configuration of R343 and R344: 2 <= m <= 511, deg(f) = m, f[0] = 1, a and b canonical, b != 0, N >= 2. -/
structure ConfigOk (s : State) : Prop where
  degree_ge : 2 ≤ s.curveM.toNat
  degree_le : s.curveM.toNat ≤ 511
  leading : s.cf.getLsbD s.curveM.toNat = true
  degree : s.cf.toNat < 2 ^ (s.curveM.toNat + 1)
  constant_term : s.cf.getLsbD 0 = true
  a_canonical : s.ca.toNat < 2 ^ s.curveM.toNat
  b_canonical : s.cb.toNat < 2 ^ s.curveM.toNat
  b_ne_zero : s.cb ≠ 0#512
  order_ge : 2 ≤ s.cn.toNat

/-- The legal states: every reachable state is one, and every step keeps them legal. -/
structure LegalState (s : State) : Prop where
  /-- LOCK is set only by a successful CFGLOCK, and the configuration is frozen under it (R344, R345). -/
  config : s.lock = true → ConfigOk s
  /-- R42, R43. -/
  schedule : ScheduleOk s
  /-- While a command is in flight, DONE = 0 and ERR = 0 (R346, R349). -/
  in_flight : s.busy = true → s.done = false ∧ s.err = .ok
  /-- An error code belongs to a completed command (R363). -/
  error_done : s.err ≠ .ok → s.done = true
  /-- No hash begun since reset: digest, checksum and count are at their reset values (R45). -/
  idle_hash : s.hst = .idle → s.hh = 0#256 ∧ s.hsig = 0#256 ∧ s.hlen = 0#256
  /-- ONC comes from a PCHK that succeeded, which needs LOCK (R313). -/
  onc_locked : s.onc = true → s.lock = true

/-! ### A well-behaved host -/

/-- An operation that reaches UKC and asserts nothing: a bus access inside the window, WAIT, or a hard reset. -/
def HostOp.inWindow : HostOp → Prop
  | .read addr _ => base ≤ addr ∧ addr < base + 0x1000
  | .write addr _ _ => base ≤ addr ∧ addr < base + 0x1000
  | .wait => True
  | .check _ _ _ => False
  | .hardReset => True

/-- Every operation at the port is one (R81). -/
def PortInWindow (s : State) : Prop := ∀ op ∈ s.port, op.inWindow

/-! ### The spec's notions, in words of their own -/

/-- a and b are congruent modulo f: a ^ b is divisible by f in GF(2)[x] (R12). -/
def Congruent (f a b : Nat) : Prop := ∃ q, a ^^^ b = clmul q f

/-- v times w is 1 modulo f (R12, `pinv`). -/
def Inverse (f v w : Nat) : Prop := Congruent f (clmul v w) 1

/-- The point (x, y) satisfies y² + x·y = x³ + a·x² + b in GF(2)[x]/(f) (R300, R303). -/
def CurveEquation (f a b x y : Nat) : Prop :=
  Congruent f (clmul y y ^^^ clmul x y) (clmul (clmul x x) x ^^^ clmul a (clmul x x) ^^^ b)

/-- A source point that passes R308: O, or canonical and on the curve. -/
def PointOk (s : State) (k : PReg) : Prop :=
  s.getInf k = true ∨
    ((s.getE (xReg k)).toNat < 2 ^ s.curveM.toNat ∧ (s.getE (yReg k)).toNat < 2 ^ s.curveM.toNat
      ∧ CurveEquation s.cf.toNat s.ca.toNat s.cb.toNat (s.getE (xReg k)).toNat (s.getE (yReg k)).toNat)

/-- A source point whose coordinates are not both canonical (R308). -/
def PointNotCanonical (s : State) (k : PReg) : Prop :=
  s.getInf k = false ∧
    ¬((s.getE (xReg k)).toNat < 2 ^ s.curveM.toNat ∧ (s.getE (yReg k)).toNat < 2 ^ s.curveM.toNat)

/-- A source point with canonical coordinates that fails the curve equation (R308). -/
def PointOffCurve (s : State) (k : PReg) : Prop :=
  s.getInf k = false
    ∧ (s.getE (xReg k)).toNat < 2 ^ s.curveM.toNat ∧ (s.getE (yReg k)).toNat < 2 ^ s.curveM.toNat
    ∧ ¬CurveEquation s.cf.toNat s.ca.toNat s.cb.toNat (s.getE (xReg k)).toNat (s.getE (yReg k)).toNat

/-- λ, x3 and y3 satisfy the addition formulas of R306 for (x1, y1) + (x2, y2), modulo f. -/
def AddFormula (f a x1 y1 x2 y2 l x3 y3 : Nat) : Prop :=
  Congruent f (clmul l (x1 ^^^ x2)) (y1 ^^^ y2)
    ∧ Congruent f x3 (clmul l l ^^^ l ^^^ x1 ^^^ x2 ^^^ a)
    ∧ Congruent f y3 (clmul l (x1 ^^^ x3) ^^^ x3 ^^^ y1)

/-- λ, x3 and y3 satisfy the doubling formulas of R305 for (x, y), modulo f: λ = x + y/x, so (λ + x)·x = y. -/
def DblFormula (f a x y l x3 y3 : Nat) : Prop :=
  Congruent f (clmul (l ^^^ x) x) y
    ∧ Congruent f x3 (clmul l l ^^^ l ^^^ a)
    ∧ Congruent f y3 (clmul x x ^^^ clmul (l ^^^ 1) x3)

/-! ### The block cipher: "t is the function of s", for states of nb columns -/

/-- s[8c + j]: row j of column c (R190). -/
def rowByte (s : Bytes) (c j : Nat) : Byte := s.getD (8 * c + j) 0#8

/-- int(s[8c..8c+7]): column c as a little-endian integer (R190, R11). -/
def columnInt (s : Bytes) (c : Nat) : Nat :=
  ((List.range 8).map fun j => (rowByte s c j).toNat * 256 ^ j).sum

/-- t = SB(s) (R191). -/
def IsSB (nb : Nat) (s t : Bytes) : Prop :=
  ∀ c < nb, ∀ j < 8, rowByte t c j = Config.ksb (Fin.ofNat 4 j) (rowByte s c j)

/-- t = ISB(s): KSB of row j takes t back to s (R192). -/
def IsISB (nb : Nat) (s t : Bytes) : Prop :=
  ∀ c < nb, ∀ j < 8, Config.ksb (Fin.ofNat 4 j) (rowByte t c j) = rowByte s c j

/-- t = SR(s) (R193). -/
def IsSR (nb : Nat) (s t : Bytes) : Prop :=
  ∀ c < nb, ∀ j < 8, rowByte t ((c + j * nb / 8) % nb) j = rowByte s c j

/-- t = ISR(s) (R194). -/
def IsISR (nb : Nat) (s t : Bytes) : Prop :=
  ∀ c < nb, ∀ j < 8, rowByte t c j = rowByte s ((c + j * nb / 8) % nb) j

/-- Each column of t is the column of s times the circulant matrix whose row 0 is v (R195, R196). -/
def IsMixed (v : List Byte) (nb : Nat) (s t : Bytes) : Prop :=
  ∀ c < nb, ∀ r < 8,
    rowByte t c r =
      (List.range 8).foldl (fun acc k => acc ^^^ gf8mul (rowByte s c k) (v.getD ((k + 8 - r) % 8) 0#8)) 0#8

/-- t = MC(s) (R195, R196). -/
def IsMC : Nat → Bytes → Bytes → Prop :=
  IsMixed [0x01#8, 0x01#8, 0x05#8, 0x01#8, 0x08#8, 0x06#8, 0x07#8, 0x04#8]

/-- t = IMC(s) (R196, R197). -/
def IsIMC : Nat → Bytes → Bytes → Prop :=
  IsMixed [0xAD#8, 0x95#8, 0x76#8, 0xA8#8, 0x2F#8, 0x49#8, 0xD7#8, 0xCA#8]

/-- t = Xor(s, k) (R198). -/
def IsXor (nb : Nat) (s k t : Bytes) : Prop :=
  ∀ c < nb, ∀ j < 8, rowByte t c j = rowByte s c j ^^^ rowByte k c j

/-- t = ModAdd(s, k): each column modulo 2^64, with no carry between columns (R198). -/
def IsModAdd (nb : Nat) (s k t : Bytes) : Prop :=
  ∀ c < nb, columnInt t c = (columnInt s c + columnInt k c) % 2 ^ 64

/-- t = ModSub(s, k) (R198). -/
def IsModSub (nb : Nat) (s k t : Bytes) : Prop :=
  ∀ c < nb, columnInt t c = (columnInt s c + 2 ^ 64 - columnInt k c) % 2 ^ 64

/-- t = COMB(r, R)(s, k): ModAdd for r = 0 and r = R, Xor between them (R199). -/
def IsComb (nb r rounds : Nat) (s k t : Bytes) : Prop :=
  if r = 0 ∨ r = rounds then IsModAdd nb s k t else IsXor nb s k t

/-- t = INV(COMB(r, R))(s, k) (R201). -/
def IsInvComb (nb r rounds : Nat) (s k t : Bytes) : Prop :=
  if r = 0 ∨ r = rounds then IsModSub nb s k t else IsXor nb s k t

/-- t = SPN_ENC(s, K, R), with SPN_FINAL_MIX = false: `st r` is the state before round r, and MC comes last in every round
but R - 1 (R200). -/
def IsSpnEnc (nb rounds : Nat) (key : Nat → Bytes) (s t : Bytes) : Prop :=
  ∃ st : Nat → Bytes, st 0 = s
    ∧ (∀ r < rounds, ∃ a b c, IsComb nb r rounds (st r) (key r) a ∧ IsSB nb a b ∧ IsSR nb b c
        ∧ (r + 1 < rounds → IsMC nb c (st (r + 1))) ∧ (r + 1 = rounds → st (r + 1) = c))
    ∧ IsComb nb rounds rounds (st rounds) (key rounds) t

/-- t = SPN_DEC(s, K, R), with SPN_FINAL_MIX = false: `st r` is the state after round r is undone, and IMC comes first in
every round but R - 1 (R201). -/
def IsSpnDec (nb rounds : Nat) (key : Nat → Bytes) (s t : Bytes) : Prop :=
  ∃ st : Nat → Bytes, IsInvComb nb rounds rounds s (key rounds) (st rounds)
    ∧ (∀ r < rounds, ∃ a b c, (r + 1 < rounds → IsIMC nb (st (r + 1)) a) ∧ (r + 1 = rounds → a = st (r + 1))
        ∧ IsISR nb a b ∧ IsISB nb b c ∧ IsInvComb nb r rounds c (key r) (st r))
    ∧ st 0 = t

/-- t = G(s) = MC(SR(SB(s))) (R203). -/
def IsRoundG (nb : Nat) (s t : Bytes) : Prop := ∃ a b, IsSB nb s a ∧ IsSR nb a b ∧ IsMC nb b t

/-- kt is the value Kt of the key: from the state whose word 0 is Nb + Nk + 1, G after ModAdd with the low half K0, Xor with
the high half K1 (K0 again if Nk = Nb), and ModAdd with K0 (R242). -/
def IsStageKt (nb nk : Nat) (key : Elem) (kt : Bytes) : Prop :=
  ∃ s0 k0 k1 a1 g1 a2 g2 a3, (∀ c < nb, columnInt s0 c = if c = 0 then nb + nk + 1 else 0)
    ∧ (∀ i < 8 * nb, k0.getD i 0#8 = byteAt key i)
    ∧ (∀ i < 8 * nb, k1.getD i 0#8 = byteAt key (if nk = nb then i else 8 * nb + i))
    ∧ IsModAdd nb s0 k0 a1 ∧ IsRoundG nb a1 g1
    ∧ IsXor nb g1 k1 a2 ∧ IsRoundG nb a2 g2
    ∧ IsModAdd nb g2 k0 a3 ∧ IsRoundG nb a3 kt

/-- t = T(D, c) under Kt: k = ModAdd(Kt, c), then ModAdd with k, G, Xor with k, G, ModAdd with k (R244). -/
def IsKeyTransform (nb : Nat) (kt d c t : Bytes) : Prop :=
  ∃ k a1 g1 a2 g2, IsModAdd nb kt c k ∧ IsModAdd nb d k a1 ∧ IsRoundG nb a1 g1
    ∧ IsXor nb g1 k a2 ∧ IsRoundG nb a2 g2 ∧ IsModAdd nb g2 k t

/-! ### The hash: "z is the function of x and y" -/

/-- z = g(x, k): HSBj on nibble j of x + k mod 2^32, then a rotation left by 11 bits (R263). -/
def IsGostG (x k z : Word) : Prop :=
  ∃ u : Word, (∀ j < 8,
      (u.extractLsb' (4 * j) 4).toNat = (hashBoxes.getD j []).getD ((x + k).extractLsb' (4 * j) 4).toNat 16)
    ∧ z = u.rotateLeft 11

/-- z = E(K, X): (n1, n2) from the low and high words of X, 32 rounds with the key words k0..k7 three times up and once
down, and n1 as the high word of the result (R264). -/
def IsGostE (key : HashWord) (x z : BitVec 64) : Prop :=
  ∃ n1 n2 : Nat → Word, n1 0 = x.extractLsb' 0 32 ∧ n2 0 = x.extractLsb' 32 32
    ∧ (∀ i < 32, n2 (i + 1) = n1 i
        ∧ ∃ g, IsGostG (n1 i) (key.extractLsb' (32 * if i < 24 then i % 8 else 31 - i) 32) g
          ∧ n1 (i + 1) = n2 i ^^^ g)
    ∧ z.extractLsb' 32 32 = n1 32 ∧ z.extractLsb' 0 32 = n2 32

/-- z = f(H, M): the keys K_j = P(U ^ V), with U = H and V = M for j = 1 and then U <- A(U) ^ C_j and V <- A(A(V)), where
C2 = C4 = 0 (R265, R269); word i of S is E(K_(i+1), h_i); and f = ψ^61(H ^ ψ(M ^ ψ^12(S))) (R270). -/
def IsCompress (h m z : HashWord) : Prop :=
  ∃ (u v : Nat → HashWord) (s : HashWord), u 1 = h ∧ v 1 = m
    ∧ u 2 = mixA (u 1) ∧ u 3 = mixA (u 2) ^^^ hc3 ∧ u 4 = mixA (u 3)
    ∧ (∀ j, 1 ≤ j → j < 4 → v (j + 1) = mixA (mixA (v j)))
    ∧ (∀ i < 4,
        IsGostE (mixP (u (i + 1) ^^^ v (i + 1))) (h.extractLsb' (64 * i) 64) (s.extractLsb' (64 * i) 64))
    ∧ z = psi^[61] (h ^^^ psi (m ^^^ psi^[12] s))

/-! ### The rows of the spec's tables, and which agent moves -/

/-- The rows of R240: BLK, KLEN and the row's Nb, Nk and R. -/
def keyRows : List (BitVec 2 × BitVec 2 × KeyRow) :=
  [(0#2, 0#2, ⟨2, 2, 10⟩), (0#2, 1#2, ⟨2, 4, 14⟩), (1#2, 1#2, ⟨4, 4, 14⟩), (1#2, 2#2, ⟨4, 8, 18⟩),
   (2#2, 2#2, ⟨8, 8, 18⟩)]

/-- The rows of R126: each opcode with its format. -/
def opcodeRows : List (Nat × Format) :=
  [(0x00, .N), (0x01, .E3), (0x02, .E2), (0x10, .E3), (0x11, .E3), (0x12, .E2), (0x13, .E2), (0x14, .E2P),
   (0x20, .N), (0x21, .N), (0x22, .N), (0x28, .N), (0x29, .N), (0x2A, .N), (0x2B, .N), (0x2C, .N), (0x2D, .N),
   (0x30, .N), (0x31, .N), (0x32, .L), (0x40, .P3), (0x41, .P2), (0x42, .P2), (0x43, .P1), (0x44, .PS),
   (0x50, .N)]

/-- The host's operation is served in this step: no completion comes first (R416). -/
def HostMoves (s : State) : Prop := s.busy = false ∨ 0 < s.delay

/-- The core's completion comes in this step: a command is in flight, no hard reset is asserted, and no host operation
comes before it (R376, R416). -/
def CoreMoves (s : State) : Prop :=
  s.busy = true ∧ (s.port = [] ∨ (s.delay = 0 ∧ s.port.head? ≠ some .hardReset))

/-! ### Offsets of the window, as the rules group them -/

/-- The inputs of commands: CMD, KCFG, CURVE_M, PINF, KEY, BLOCK, HIV, HMSG, CF, CA, CB, CN and E0..E15 (R93). -/
def CommandInput (off : Nat) : Prop :=
  off = 0x010 ∨ off = 0x01C ∨ off = 0x020 ∨ off = 0x024 ∨ (0x100 ≤ off ∧ off < 0x1C0) ∨ (0x300 ≤ off ∧ off < 0x800)

/-- The read-only registers and the reserved offsets (R85, R88). -/
def ReadOnlyOrReserved (off : Nat) : Prop :=
  off = 0x000 ∨ off = 0x004 ∨ off = 0x00C ∨ (0x028 ≤ off ∧ off < 0x100) ∨ (0x1C0 ≤ off ∧ off < 0x300)
    ∨ (0x800 ≤ off ∧ off < 0x1000)

/-- CURVE_M, CF, CA, CB and CN (R94). -/
def CurveConfigInput (off : Nat) : Prop := off = 0x020 ∨ (0x300 ≤ off ∧ off < 0x400)

/-- The offsets whose reads are exact while BUSY = 1: ID, VERSION, CTRL, STATUS, CMD, IRQ_EN, IRQ_STAT and the reserved
offsets (R92). -/
def ExactOffset (off : Nat) : Prop :=
  off < 0x01C ∨ (0x02C ≤ off ∧ off < 0x100) ∨ (0x220 ≤ off ∧ off < 0x300) ∨ (0xCC0 ≤ off ∧ off < 0x1000)

/-! ### Completions, written out -/

/-- n steps in a row, up to the first that does not answer a next state. -/
def run : Nat → State → Result
  | 0, s => .next s
  | n + 1, s =>
    match step s with
    | .next t => run n t
    | .fault why => .fault why
    | .refused why => .refused why

/-- The state `u` with the flags of a successful completion of R347: ERR = OK, BUSY = 0, DONE = 1, IRQ_STAT.DONE = 1, and
IRQ_STAT.ERR as it was. -/
def succeeded (u : State) : State :=
  { u with err := .ok, busy := false, done := true, irqDone := true }

/-- The state `s` with the flags of an error completion, and nothing else changed (R366). -/
def failed (s : State) (code : ErrCode) : State :=
  { s with err := code, busy := false, done := true, irqDone := true, irqErr := true }

end Sys2Proof.Machine
end

