-- ==== Sys2Proof/Certificates/Slice0/Obligations.lean ====
section
/-! DEFINITION. The statements for the provers. Each `def Obligations.<Name> : Prop` is listed in OBLIGATIONS.json. A statement
about an instruction gives its whole next state: `succeeded u` and `failed s code` are the completions of R347 and R366,
so everything that is not named in `u` is unchanged. UKC has no memory; its registers are its whole state. -/

section

open Sys2Proof Sys2Proof.Machine

/-! ### Encoding (30_encoding.md) -/

/-- Decoding the encoding of a well-formed command gives the command back, for every operand (R130, R126). -/
def Obligations.DecodeEncode : Prop :=
  ∀ i : Instr, i.wf = true → decode (encode i) = .ok i

/-- A word that decodes to a command is that well-formed command's encoding: each command has one word. -/
def Obligations.EncodeDecode : Prop :=
  ∀ (w : Word) (i : Instr), decode w = .ok i → i.wf = true ∧ encode i = w

/-- R122: the word w encodes the command of a row exactly when w & mask = OP. -/
def Obligations.DecodeMatchesRows : Prop :=
  ∀ (w : Word), ∀ row ∈ opcodeRows,
    (∃ i, decode w = .ok i ∧ i.opcode = row.1 ∧ i.format = row.2)
      ↔ w &&& row.2.mask = BitVec.ofNat 32 row.1

/-- R129: every word is either exactly one command of the opcode table or illegal. -/
def Obligations.DecodeTotal : Prop :=
  ∀ w : Word,
    ((∃! row, row ∈ opcodeRows ∧ w &&& row.2.mask = BitVec.ofNat 32 row.1) ∧ ∃ i, decode w = .ok i)
      ∨ ((∀ row ∈ opcodeRows, w &&& row.2.mask ≠ BitVec.ofNat 32 row.1) ∧ ∃ why, decode w = .error why)

/-- R128: an illegal word is accepted, and it completes with ILLEGAL_CMD and changes nothing else. -/
def Obligations.IllegalWord : Prop :=
  ∀ w : Word, (∀ row ∈ opcodeRows, w &&& row.2.mask ≠ BitVec.ofNat 32 row.1) →
    (∀ s rest, s.busy = false → s.port = .write (base + 0x010) 4 w :: rest →
        ∃ t, step s = .next t ∧ t.busy = true ∧ t.cmd = w)
      ∧ (∀ s, CoreMoves s → s.cmd = w → step s = .next (failed s .illegalCmd))

/-- A few words written out from the encodings of R121, R122 and R126 decode to the commands they stand for. -/
def Obligations.SampleWords : Prop :=
  decode 0x00021301#32 = .ok (.gf8mul 3 1 2) ∧ decode 0x00001402#32 = .ok (.gf8inv 4 1)
    ∧ decode 0x00000214#32 = .ok (.gfmred 2 0) ∧ decode 0x00000020#32 = .ok .keyexp
    ∧ decode 0x01200032#32 = .ok (.hfin 18) ∧ decode 0x00010240#32 = .ok (.padd 2 0 1)
    ∧ decode 0x00040144#32 = .ok (.smul 1 0 4) ∧ decode 0x00000050#32 = .ok .cfglock
    ∧ decode 0x00001014#32 = .error (.mustBeZero 0x14) ∧ decode 0x000000F0#32 = .error (.unassignedOpcode 0xF0)

/-! ### The life of a command (45_control.md) -/

/-- A completion step runs the command that CMD decodes to, and adds nothing around it; so does the step after
`withFetchWord` of a well-formed command's word (log entry 8). -/
def Obligations.StepRunsCommand : Prop :=
  (∀ s i, CoreMoves s → decode s.cmd = .ok i → step s = exec i s)
    ∧ (∀ (s : State) (i : Instr), i.wf = true → (s.withFetchWord 32 (encode i).toNat).cmd = encode i
        ∧ step (s.withFetchWord 32 (encode i).toNat) = exec i (s.withFetchWord 32 (encode i).toNat))

/-- R346: a write of w to CMD while BUSY = 0 sets CMD, BUSY, DONE and ERR and nothing else of UKC; while BUSY = 1 it is
ignored and sets WERR. Every step that leaves the command in flight keeps its word and all its operands. The delay drawn is
the model's own (log entry 2). -/
def Obligations.CommandAcceptance : Prop :=
  (∀ s rest w, s.port = .write (base + 0x010) 4 w :: rest →
      (s.busy = false → ∃ d,
          step s = .next
            { s with
              cmd := w, busy := true, done := false, err := .ok, port := rest, answer := some .written,
              delay := d, draws := s.draws + 1 })
        ∧ (s.busy = true → 0 < s.delay →
          step s = .next { s with werr := true, port := rest, answer := some .written, delay := s.delay - 1 }))
    ∧ ∀ s t, s.busy = true → step s = .next t → t.busy = true →
      t = { s with
            werr := t.werr, irqDoneEn := t.irqDoneEn, irqErrEn := t.irqErrEn, irqDone := t.irqDone,
            irqErr := t.irqErr, port := t.port, answer := t.answer, delay := t.delay, draws := t.draws }

/-- The flags of every completion (R347): it always comes, with a next state, and it does what R347's last five lines say. -/
def Obligations.CompletionFlags : Prop :=
  ∀ s, CoreMoves s →
    ∃ t, step s = .next t ∧ t.busy = false ∧ t.done = true ∧ t.irqDone = true
      ∧ (t.err ≠ .ok → t.irqErr = true) ∧ (t.err = .ok → t.irqErr = s.irqErr)

/-- R366: a command that ends in an error changes only ERR, BUSY, DONE and the two IRQ_STAT bits. -/
def Obligations.ErrorIsPrecise : Prop :=
  ∀ s t, CoreMoves s → step s = .next t → t.err ≠ .ok → t = failed s t.err

/-- Which commands can change which state (R38 to R45, R47, R49, R51, R313): everything else of UKC keeps its value over every
command, and so do the operations that wait at the port. Of these, PCHK (opcode 0x43) changes ONC alone. -/
def Obligations.WritersOfState : Prop :=
  ∀ s t i, exec i s = .next t →
    (t.key = s.key ∧ t.kcfgBlk = s.kcfgBlk ∧ t.kcfgKlen = s.kcfgKlen ∧ t.curveM = s.curveM ∧ t.cf = s.cf
        ∧ t.ca = s.ca ∧ t.cb = s.cb ∧ t.cn = s.cn ∧ t.hiv = s.hiv ∧ t.hmsg = s.hmsg ∧ t.werr = s.werr
        ∧ t.cmd = s.cmd ∧ t.irqDoneEn = s.irqDoneEn ∧ t.irqErrEn = s.irqErrEn ∧ t.port = s.port
        ∧ t.answer = s.answer ∧ t.delay = s.delay ∧ t.draws = s.draws)
      ∧ (t.block ≠ s.block → i ∈ [.enc, .dec, .spnsb, .spnisb, .spnsr, .spnisr, .spnmc, .spnimc])
      ∧ (t.rk ≠ s.rk ∨ t.schedValid ≠ s.schedValid ∨ t.schedBlk ≠ s.schedBlk ∨ t.schedKlen ≠ s.schedKlen
          ∨ t.schedNr ≠ s.schedNr → i = .keyexp)
      ∧ (t.hh ≠ s.hh ∨ t.hsig ≠ s.hsig ∨ t.hlen ≠ s.hlen ∨ t.hst ≠ s.hst →
          i = .hinit ∨ i = .hupd ∨ ∃ n, i = .hfin n)
      ∧ (t.lock ≠ s.lock → i = .cfglock)
      ∧ (t.onc ≠ s.onc → ∃ k, i = .pchk k)
      ∧ (t.pinf ≠ s.pinf → i.opcode ∈ [0x40, 0x41, 0x42, 0x44])
      ∧ (t.e ≠ s.e → i.opcode ∈ [0x01, 0x02, 0x10, 0x11, 0x12, 0x13, 0x14, 0x40, 0x41, 0x42, 0x44])

/-- A command in flight does not stay in flight (R341, R420): with a host that keeps to the window, at most delay + 1 steps
after any state with BUSY = 1, BUSY has become 0. That `delay` bounds it is the model's form of U5 (log entry 2). -/
def Obligations.CompletesInTime : Prop :=
  ∀ s, s.busy = true → PortInWindow s →
    ∃ n t, 0 < n ∧ n ≤ s.delay + 1 ∧ run n s = .next t ∧ t.busy = false

/-- Every step keeps the legal states legal: the locked configuration stays valid, RK and SCHED stay a schedule of R240 or
empty, a command in flight has DONE = 0 and ERR = 0, and so on (`LegalState`). -/
def Obligations.LegalKept : Prop :=
  ∀ s t, LegalState s → step s = .next t → LegalState t

/-- The state after reset is legal. -/
def Obligations.LegalReset : Prop := LegalState State.reset

/-- R345 (with R94): LOCK is set only by a successful CFGLOCK, cleared only by a hard reset or CTRL.SRST, and while it is
1, writes to the curve configuration are ignored and set WERR, and the configuration keeps its value. -/
def Obligations.LockRules : Prop :=
  (∀ s t, step s = .next t → s.lock = false → t.lock = true →
      CoreMoves s ∧ decode s.cmd = .ok .cfglock ∧ t.err = .ok)
    ∧ (∀ s t, step s = .next t → s.lock = true → t.lock = false →
        (∃ rest, s.port = .hardReset :: rest)
          ∨ ∃ v rest, s.port = .write (base + 0x008) 4 v :: rest ∧ v.getLsbD 0 = true)
    ∧ (∀ s t, step s = .next t → s.lock = true → t.lock = true →
        t.curveM = s.curveM ∧ t.cf = s.cf ∧ t.ca = s.ca ∧ t.cb = s.cb ∧ t.cn = s.cn)
    ∧ (∀ s off v rest, s.lock = true → HostMoves s → CurveConfigInput off → off % 4 = 0 →
        s.port = .write (base + off) 4 v :: rest →
        step s = .next { s with werr := true, port := rest, answer := some .written, delay := s.delay - 1 })

/-! ### The register window (20_memory.md) -/

/-- R93: what a write does while BUSY = 1, by class of its offset. -/
def Obligations.BusyWrites : Prop :=
  ∀ s off v rest, s.busy = true → 0 < s.delay → off % 4 = 0 → s.port = .write (base + off) 4 v :: rest →
    (off = 0x008 → v.getLsbD 0 = true →
        step s = .next { State.reset with port := rest, answer := some .written, draws := s.draws })
      ∧ (off = 0x008 → v.getLsbD 0 = false →
        step s = .next
          { s with
            werr := s.werr && !v.getLsbD 1, port := rest, answer := some .written, delay := s.delay - 1 })
      ∧ (off = 0x014 →
        step s = .next
          { s with
            irqDoneEn := v.getLsbD 0, irqErrEn := v.getLsbD 1, port := rest, answer := some .written,
            delay := s.delay - 1 })
      ∧ (off = 0x018 →
        step s = .next
          { s with
            irqDone := s.irqDone && !v.getLsbD 0, irqErr := s.irqErr && !v.getLsbD 1, port := rest,
            answer := some .written, delay := s.delay - 1 })
      ∧ (CommandInput off →
        step s = .next { s with werr := true, port := rest, answer := some .written, delay := s.delay - 1 })
      ∧ (ReadOnlyOrReserved off →
        step s = .next { s with port := rest, answer := some .written, delay := s.delay - 1 })

/-- R92: while BUSY = 1, reads of the exact offsets return the register's value, and reads of every other offset return an
unspecified value; neither changes a register. The free value and its count are the model's own (log entries 3, 4). -/
def Obligations.BusyReads : Prop :=
  ∀ s off rest, s.busy = true → 0 < s.delay → off % 4 = 0 → off < 0x1000 →
    s.port = .read (base + off) 4 :: rest →
    (ExactOffset off →
        step s = .next
          { s with
            port := rest, answer := some (.data (s.readReg (windowReg off))), delay := s.delay - 1 })
      ∧ (¬ExactOffset off → ∃ v,
        step s = .next
          { s with port := rest, answer := some (.data v), delay := s.delay - 1, draws := s.draws + 1 })

/-- R82: only aligned 32-bit accesses are accepted; any other access of the window gets a bus error, a read's with data 0,
and changes no state of UKC. -/
def Obligations.BadAccess : Prop :=
  ∀ s off size v rest, HostMoves s → off < 0x1000 →
    (s.port = .read (base + off) size :: rest →
        (size ≠ 4 ∨ off % 4 ≠ 0 →
          step s = .next
            { s with port := rest, answer := some (.readError 0#32), delay := s.delay - 1 })
        ∧ (size = 4 → off % 4 = 0 → ∃ t got, step s = .next t ∧ t.answer = some (.data got)))
      ∧ (s.port = .write (base + off) size v :: rest →
        (size ≠ 4 ∨ off % 4 ≠ 0 →
          step s = .next { s with port := rest, answer := some .writeError, delay := s.delay - 1 })
        ∧ (size = 4 → off % 4 = 0 → ∃ t, step s = .next t ∧ t.answer = some .written))

/-- Where each register and field stands in the window (R84, R86, with R32, R33, R37, R40, R41, R43, R46 to R50): the
32-bit registers field by field, the wide ones byte by byte. -/
def Obligations.WindowReads : Prop :=
  ∀ s : State,
    (s.readReg (windowReg 0x000) = 0x554B4331#32 ∧ s.readReg (windowReg 0x004) = 1#32
        ∧ s.readReg (windowReg 0x008) = 0#32 ∧ s.readReg (windowReg 0x010) = s.cmd)
      ∧ (∀ b < 32, (s.readReg (windowReg 0x00C)).getLsbD b =
          (if b = 0 then s.busy else if b = 1 then s.done
            else if 4 ≤ b ∧ b ≤ 7 then s.err.code.testBit (b - 4)
            else if b = 8 then s.schedValid
            else if b = 9 then s.hst == .active else if b = 10 then s.hst == .final
            else if b = 11 then s.lock else if b = 12 then s.onc else if b = 13 then s.werr else false))
      ∧ (∀ b < 32, (s.readReg (windowReg 0x014)).getLsbD b =
          (if b = 0 then s.irqDoneEn else if b = 1 then s.irqErrEn else false))
      ∧ (∀ b < 32, (s.readReg (windowReg 0x018)).getLsbD b =
          (if b = 0 then s.irqDone else if b = 1 then s.irqErr else false))
      ∧ (∀ b < 32, (s.readReg (windowReg 0x01C)).getLsbD b =
          (if b < 2 then s.kcfgBlk.getLsbD b else if 4 ≤ b then s.kcfgKlen.getLsbD (b - 4) else false))
      ∧ (∀ b < 32, (s.readReg (windowReg 0x020)).getLsbD b = s.curveM.getLsbD b)
      ∧ (∀ b < 32, (s.readReg (windowReg 0x024)).getLsbD b = s.pinf.getLsbD b)
      ∧ (∀ b < 32, (s.readReg (windowReg 0x028)).getLsbD b =
          (if b = 0 then s.schedValid else if b < 3 then s.schedBlk.getLsbD (b - 1)
            else if b < 4 then false else if b < 8 then s.schedKlen.getLsbD (b - 4)
            else s.schedNr.getLsbD (b - 8)))
      ∧ (∀ w b, w < 16 → b < 4 →
          byteAt (s.readReg (windowReg (0x100 + 4 * w))) b = byteAt s.key (4 * w + b)
            ∧ byteAt (s.readReg (windowReg (0x140 + 4 * w))) b = byteAt s.block (4 * w + b)
            ∧ byteAt (s.readReg (windowReg (0x300 + 4 * w))) b = byteAt s.cf (4 * w + b)
            ∧ byteAt (s.readReg (windowReg (0x340 + 4 * w))) b = byteAt s.ca (4 * w + b)
            ∧ byteAt (s.readReg (windowReg (0x380 + 4 * w))) b = byteAt s.cb (4 * w + b)
            ∧ byteAt (s.readReg (windowReg (0x3C0 + 4 * w))) b = byteAt s.cn (4 * w + b)
            ∧ (∀ i : EReg,
                byteAt (s.readReg (windowReg (0x400 + 0x40 * i.val + 4 * w))) b = byteAt (s.getE i) (4 * w + b))
            ∧ (∀ i < 19,
                byteAt (s.readReg (windowReg (0x800 + 0x40 * i + 4 * w))) b = byteAt (s.getRk i) (4 * w + b)))
      ∧ (∀ w b, w < 8 → b < 4 →
          byteAt (s.readReg (windowReg (0x180 + 4 * w))) b = byteAt s.hiv (4 * w + b)
            ∧ byteAt (s.readReg (windowReg (0x1A0 + 4 * w))) b = byteAt s.hmsg (4 * w + b)
            ∧ byteAt (s.readReg (windowReg (0x1C0 + 4 * w))) b = byteAt s.hh (4 * w + b)
            ∧ byteAt (s.readReg (windowReg (0x1E0 + 4 * w))) b = byteAt s.hsig (4 * w + b)
            ∧ byteAt (s.readReg (windowReg (0x200 + 4 * w))) b = byteAt s.hlen (4 * w + b))
      ∧ (∀ off, (0x02C ≤ off ∧ off < 0x100) ∨ (0x220 ≤ off ∧ off < 0x300) ∨ (0xCC0 ≤ off ∧ off < 0x1000) →
          s.readReg (windowReg off) = 0#32)

/-- While BUSY = 0, a read returns the register's current value and changes no register (R88, R89). -/
def Obligations.IdleReads : Prop :=
  ∀ s off rest, s.busy = false → off % 4 = 0 → off < 0x1000 → s.port = .read (base + off) 4 :: rest →
    step s = .next
      { s with port := rest, answer := some (.data (s.readReg (windowReg off))), delay := s.delay - 1 }

/-- While BUSY = 0, a write of a word of KEY, BLOCK, HIV, HMSG, E0..E15, and while LOCK = 0 of CF, CA, CB and CN, reads back
as written, and every other word of the window reads as before (R83, R89, R411, R412). -/
def Obligations.WideWrites : Prop :=
  ∀ s off v rest, s.busy = false → off % 4 = 0 →
    (0x100 ≤ off ∧ off < 0x1C0) ∨ (0x300 ≤ off ∧ off < 0x400 ∧ s.lock = false) ∨ (0x400 ≤ off ∧ off < 0x800) →
    s.port = .write (base + off) 4 v :: rest →
    ∃ t, step s = .next t ∧ t.busy = false ∧ t.port = rest ∧ t.answer = some .written
      ∧ t.readReg (windowReg off) = v
      ∧ ∀ other, other % 4 = 0 → other < 0x1000 → other ≠ off →
          t.readReg (windowReg other) = s.readReg (windowReg other)

/-- Writes of the 32-bit configuration registers and of the read-only registers and reserved offsets, while BUSY = 0 (R37,
R40, R41, R49, R50, R85, R88): only the writable fields change. -/
def Obligations.ControlWrites : Prop :=
  ∀ s off v rest, s.busy = false → off % 4 = 0 → s.port = .write (base + off) 4 v :: rest →
    (off = 0x01C →
        step s = .next
          { s with
            kcfgBlk := v.extractLsb' 0 2, kcfgKlen := v.extractLsb' 4 2, port := rest,
            answer := some .written, delay := s.delay - 1 })
      ∧ (off = 0x020 → s.lock = false →
        step s = .next
          { s with
            curveM := v.extractLsb' 0 10, port := rest, answer := some .written, delay := s.delay - 1 })
      ∧ (off = 0x024 →
        step s = .next
          { s with pinf := v.extractLsb' 0 8, port := rest, answer := some .written, delay := s.delay - 1 })
      ∧ (off = 0x014 →
        step s = .next
          { s with
            irqDoneEn := v.getLsbD 0, irqErrEn := v.getLsbD 1, port := rest, answer := some .written,
            delay := s.delay - 1 })
      ∧ (off = 0x018 →
        step s = .next
          { s with
            irqDone := s.irqDone && !v.getLsbD 0, irqErr := s.irqErr && !v.getLsbD 1, port := rest,
            answer := some .written, delay := s.delay - 1 })
      ∧ (ReadOnlyOrReserved off →
        step s = .next { s with port := rest, answer := some .written, delay := s.delay - 1 })

/-- R46: CTRL reads as zero; a write of 1 to SRST resets, alone or together with CLRWERR (WERR is zero after it); a write of
1 to CLRWERR alone clears WERR; every other bit, and a 0, has no effect. -/
def Obligations.CtrlWrite : Prop :=
  (∀ s : State, s.readReg (windowReg 0x008) = 0#32)
    ∧ ∀ s v rest, HostMoves s → s.port = .write (base + 0x008) 4 v :: rest →
      (v.getLsbD 0 = true →
          step s = .next { State.reset with port := rest, answer := some .written, draws := s.draws })
        ∧ (v.getLsbD 0 = false → v.getLsbD 1 = true →
          step s = .next { s with werr := false, port := rest, answer := some .written, delay := s.delay - 1 })
        ∧ (v.getLsbD 0 = false → v.getLsbD 1 = false →
          step s = .next { s with port := rest, answer := some .written, delay := s.delay - 1 })

/-- R401: a CTRL write with SRST = 1 has the effect of a hard reset, whether BUSY is 0 or 1; the write completes normally on
the bus, and a read that follows it sees the reset state. -/
def Obligations.SoftReset : Prop :=
  ∀ s v rest, HostMoves s → v.getLsbD 0 = true → s.port = .write (base + 0x008) 4 v :: rest →
    (∃ t, step s = .next t ∧ t.answer = some .written ∧ t.port = rest
        ∧ { t with answer := none, draws := 0, port := [] } = State.reset)
      ∧ (∀ t u, step { s with port := .hardReset :: rest } = .next t → step s = .next u →
          u = { t with answer := some .written })
      ∧ ∀ off rest', off % 4 = 0 → off < 0x1000 → rest = .read (base + off) 4 :: rest' →
        ∃ t, run 2 s = .next t ∧ t.answer = some (.data (State.reset.readReg (windowReg off)))

/-- R400: whatever UKC is doing, a hard reset leaves every register at its reset value, no command in flight and IRQ low;
every word of the window then reads zero but ID and VERSION. What waits at the port and the count of draws are no state of
UKC (log entries 1, 4). -/
def Obligations.HardReset : Prop :=
  (∀ s rest, s.port = .hardReset :: rest →
      step s = .next { State.reset with port := rest, draws := s.draws })
    ∧ (∀ off < 0x1000, State.reset.readReg (windowReg off) =
        (if off < 4 then 0x554B4331#32 else if off < 8 then 1#32 else 0#32))
    ∧ State.reset.busy = false ∧ State.reset.irq = false

/-- The interrupt output over a completion (R370, R371): the done source is pending, the error source is pending exactly if
it was or the command failed, and the enables are as they were. -/
def Obligations.InterruptAtCompletion : Prop :=
  ∀ s, CoreMoves s → ∃ t, step s = .next t
    ∧ t.irq = (s.irqDoneEn || (s.irqErrEn && (s.irqErr || t.err != .ok)))

/-- A host that keeps to the window and asserts nothing never stops UKC: every step answers a next state, and the host still
keeps to the window after it (R341, R377, R95). -/
def Obligations.NeverStops : Prop :=
  ∀ s, PortInWindow s → ∃ t, step s = .next t ∧ PortInWindow t

/-- WAIT (R131): each turn of the loop reads STATUS; the loop goes on while bit 0 of the value is 1 and ends at the first
value with BUSY = 0. -/
def Obligations.WaitLoop : Prop :=
  ∀ s rest, HostMoves s → s.port = .wait :: rest →
    (s.readReg (windowReg 0x00C)).getLsbD 0 = s.busy
      ∧ step s = .next
        { s with
          port := (if s.busy then .wait :: rest else rest)
          answer := some (.data (s.readReg (windowReg 0x00C)))
          delay := s.delay - 1 }

/-! ### Control commands (45_control.md) -/

/-- NOP completes and changes nothing else (R340). -/
def Obligations.NopCompletes : Prop :=
  ∀ s, exec .nop s = .next (succeeded s)

/-- R343: CFGLOCK on a locked configuration has no effect; else it locks a valid configuration, and ends in BAD_CONFIG on an
invalid one. -/
def Obligations.CfglockValidates : Prop :=
  ∀ s,
    (s.lock = true → exec .cfglock s = .next (succeeded s))
      ∧ (s.lock = false → ConfigOk s → exec .cfglock s = .next (succeeded { s with lock := true }))
      ∧ (s.lock = false → ¬ConfigOk s → exec .cfglock s = .next (failed s .badConfig))

/-! ### Galois fields (40_gf.md) -/

/-- GF8MUL (R150, R151): for operands below 0x100, the result is the carry-less product reduced modulo P8; any other operand
is INVALID_OPERAND. -/
def Obligations.Gf8Multiply : Prop :=
  ∀ s rd rs1 rs2,
    ((s.getE rs1).toNat < 0x100 → (s.getE rs2).toNat < 0x100 →
        ∃ r < 0x100, Congruent 0x11D (clmul (s.getE rs1).toNat (s.getE rs2).toNat) r
          ∧ exec (.gf8mul rd rs1 rs2) s = .next (succeeded (s.setE rd (BitVec.ofNat 512 r))))
      ∧ (0x100 ≤ (s.getE rs1).toNat ∨ 0x100 ≤ (s.getE rs2).toNat →
        exec (.gf8mul rd rs1 rs2) s = .next (failed s .invalidOperand))

/-- GF8INV (R150, R153): for an operand from 1 to 0xFF, the result is its inverse modulo P8; any other operand is
INVALID_OPERAND. -/
def Obligations.Gf8Invert : Prop :=
  ∀ s rd rs1,
    (0 < (s.getE rs1).toNat → (s.getE rs1).toNat < 0x100 →
        ∃ r < 0x100, Inverse 0x11D (s.getE rs1).toNat r
          ∧ exec (.gf8inv rd rs1) s = .next (succeeded (s.setE rd (BitVec.ofNat 512 r))))
      ∧ ((s.getE rs1).toNat = 0 ∨ 0x100 ≤ (s.getE rs1).toNat →
        exec (.gf8inv rd rs1) s = .next (failed s .invalidOperand))

/-- R152: GF(2^8) multiplication (the product modulo P8, R13) is commutative and associative, distributes over XOR, has identity 1, and every nonzero
element has a unique inverse. -/
def Obligations.Gf8Field : Prop :=
  (∀ a b, Congruent 0x11D (clmul a.toNat b.toNat) (gf8mul a b).toNat)
    ∧ (∀ a b, gf8mul a b = gf8mul b a)
    ∧ (∀ a b c, gf8mul (gf8mul a b) c = gf8mul a (gf8mul b c))
    ∧ (∀ a b c, gf8mul a (b ^^^ c) = gf8mul a b ^^^ gf8mul a c)
    ∧ (∀ a, gf8mul 1#8 a = a)
    ∧ (∀ a, a ≠ 0#8 → ∃! b, gf8mul a b = 1#8)

/-- GFMADD, GFMMUL, GFMSQR and GFMRED (R155, R157 to R159, R163): under a locked valid configuration, the sum of two
canonical operands, their product, the square, and the reduction of a 1024-bit pair, modulo f and canonical. -/
def Obligations.GfmArithmetic : Prop :=
  ∀ s rd rs1 rs2, s.lock = true → ConfigOk s →
    ((s.getE rs1).toNat < 2 ^ s.curveM.toNat → (s.getE rs2).toNat < 2 ^ s.curveM.toNat →
        exec (.gfmadd rd rs1 rs2) s = .next (succeeded (s.setE rd (s.getE rs1 ^^^ s.getE rs2)))
          ∧ (s.getE rs1 ^^^ s.getE rs2).toNat < 2 ^ s.curveM.toNat
          ∧ ∃ r < 2 ^ s.curveM.toNat,
            Congruent s.cf.toNat (clmul (s.getE rs1).toNat (s.getE rs2).toNat) r
              ∧ exec (.gfmmul rd rs1 rs2) s = .next (succeeded (s.setE rd (BitVec.ofNat 512 r))))
      ∧ ((s.getE rs1).toNat < 2 ^ s.curveM.toNat →
        ∃ r < 2 ^ s.curveM.toNat,
          Congruent s.cf.toNat (clmul (s.getE rs1).toNat (s.getE rs1).toNat) r
            ∧ exec (.gfmsqr rd rs1) s = .next (succeeded (s.setE rd (BitVec.ofNat 512 r))))
      ∧ (evenReg rs1 = true →
        ∃ r < 2 ^ s.curveM.toNat,
          Congruent s.cf.toNat ((s.getE (rs1 + 1)).toNat * 2 ^ 512 + (s.getE rs1).toNat) r
            ∧ exec (.gfmred rd rs1) s = .next (succeeded (s.setE rd (BitVec.ofNat 512 r))))

/-- GFMINV (R160, R162): a canonical operand with an inverse modulo f gives that inverse, which is unique; one without
(zero, or a non-unit of a reducible f) is INVALID_OPERAND. -/
def Obligations.GfmInvert : Prop :=
  ∀ s rd rs1, s.lock = true → ConfigOk s → (s.getE rs1).toNat < 2 ^ s.curveM.toNat →
    (∀ r < 2 ^ s.curveM.toNat, Inverse s.cf.toNat (s.getE rs1).toNat r →
        exec (.gfminv rd rs1) s = .next (succeeded (s.setE rd (BitVec.ofNat 512 r))))
      ∧ ((∀ r < 2 ^ s.curveM.toNat, ¬Inverse s.cf.toNat (s.getE rs1).toNat r) →
        exec (.gfminv rd rs1) s = .next (failed s .invalidOperand))

/-- R156: the checks every GF(2^m) command runs first, LOCK before the operands; GFMRED has no canonical check. -/
def Obligations.GfmChecks : Prop :=
  ∀ s rd rs1 rs2,
    (s.lock = false →
        exec (.gfmadd rd rs1 rs2) s = .next (failed s .notReady)
          ∧ exec (.gfmmul rd rs1 rs2) s = .next (failed s .notReady)
          ∧ exec (.gfmsqr rd rs1) s = .next (failed s .notReady)
          ∧ exec (.gfminv rd rs1) s = .next (failed s .notReady)
          ∧ (evenReg rs1 = true → exec (.gfmred rd rs1) s = .next (failed s .notReady)))
      ∧ (s.lock = true →
        2 ^ s.curveM.toNat ≤ (s.getE rs1).toNat ∨ 2 ^ s.curveM.toNat ≤ (s.getE rs2).toNat →
        exec (.gfmadd rd rs1 rs2) s = .next (failed s .invalidOperand)
          ∧ exec (.gfmmul rd rs1 rs2) s = .next (failed s .invalidOperand))
      ∧ (s.lock = true → 2 ^ s.curveM.toNat ≤ (s.getE rs1).toNat →
        exec (.gfmsqr rd rs1) s = .next (failed s .invalidOperand)
          ∧ exec (.gfminv rd rs1) s = .next (failed s .invalidOperand))
      ∧ (s.lock = true → evenReg rs1 = true →
        ∃ v, exec (.gfmred rd rs1) s = .next (succeeded (s.setE rd v)))

/-- R127: GFMSQR computes what GFMMUL of one operand with itself does, and PDBL what PADD of one point with itself does, yet
each is an opcode of its own. -/
def Obligations.SameResultCommands : Prop :=
  (∀ s rd rs1, exec (.gfmsqr rd rs1) s = exec (.gfmmul rd rs1 rs1) s)
    ∧ (∀ s pd ps1, exec (.pdbl pd ps1) s = exec (.padd pd ps1 ps1) s)
    ∧ (∀ rd rs1 rd' a b, encode (.gfmsqr rd rs1) ≠ encode (.gfmmul rd' a b))
    ∧ (∀ pd ps1 pd' a b, encode (.pdbl pd ps1) ≠ encode (.padd pd' a b))

/-! ### The block cipher (41_spn_cipher.md) -/

/-- SPNSB and SPNISB (R191, R192, R205 to R207): byte 8c + j of the block goes through the S-box of row j mod 4, or through its
inverse; the bytes past the block and everything else keep their value. -/
def Obligations.SpnSubstitution : Prop :=
  ∀ s, s.kcfgBlk ≠ 3#2 →
    (∃ b, exec .spnsb s = .next (succeeded (s.setBlock b))
        ∧ (∀ c < 2 * 2 ^ s.kcfgBlk.toNat, ∀ j < 8,
            byteAt b (8 * c + j) = Config.ksb (Fin.ofNat 4 j) (byteAt s.block (8 * c + j)))
        ∧ ∀ i < 64, 16 * 2 ^ s.kcfgBlk.toNat ≤ i → byteAt b i = byteAt s.block i)
      ∧ (∃ b, exec .spnisb s = .next (succeeded (s.setBlock b))
        ∧ (∀ c < 2 * 2 ^ s.kcfgBlk.toNat, ∀ j < 8,
            Config.ksb (Fin.ofNat 4 j) (byteAt b (8 * c + j)) = byteAt s.block (8 * c + j))
        ∧ ∀ i < 64, 16 * 2 ^ s.kcfgBlk.toNat ≤ i → byteAt b i = byteAt s.block i)

/-- SPNSR and SPNISR (R193, R194, R205, R208, R209): the byte of row j and column c goes to column (c + sh(j)) mod Nb, with
sh(j) = floor(j·Nb/8), or comes from there. -/
def Obligations.SpnRowRotation : Prop :=
  ∀ s nb, s.kcfgBlk ≠ 3#2 → nb = 2 * 2 ^ s.kcfgBlk.toNat →
    (∃ b, exec .spnsr s = .next (succeeded (s.setBlock b))
        ∧ (∀ c < nb, ∀ j < 8,
            byteAt b (8 * ((c + j * nb / 8) % nb) + j) = byteAt s.block (8 * c + j))
        ∧ ∀ i < 64, 8 * nb ≤ i → byteAt b i = byteAt s.block i)
      ∧ (∃ b, exec .spnisr s = .next (succeeded (s.setBlock b))
        ∧ (∀ c < nb, ∀ j < 8,
            byteAt b (8 * c + j) = byteAt s.block (8 * ((c + j * nb / 8) % nb) + j))
        ∧ ∀ i < 64, 8 * nb ≤ i → byteAt b i = byteAt s.block i)

/-- SPNMC and SPNIMC (R195 to R197, R205, R210, R211): each column times the circulant matrix whose row 0 is MDSV, or
MDSIV. -/
def Obligations.SpnColumnMixing : Prop :=
  ∀ s, s.kcfgBlk ≠ 3#2 →
    (∃ b, exec .spnmc s = .next (succeeded (s.setBlock b))
        ∧ (∀ c < 2 * 2 ^ s.kcfgBlk.toNat, ∀ r < 8,
            byteAt b (8 * c + r) =
              (List.range 8).foldl
                (fun acc k => acc ^^^ gf8mul (byteAt s.block (8 * c + k))
                  ([0x01#8, 0x01#8, 0x05#8, 0x01#8, 0x08#8, 0x06#8, 0x07#8, 0x04#8].getD ((k + 8 - r) % 8) 0#8))
                0#8)
        ∧ ∀ i < 64, 16 * 2 ^ s.kcfgBlk.toNat ≤ i → byteAt b i = byteAt s.block i)
      ∧ (∃ b, exec .spnimc s = .next (succeeded (s.setBlock b))
        ∧ (∀ c < 2 * 2 ^ s.kcfgBlk.toNat, ∀ r < 8,
            byteAt b (8 * c + r) =
              (List.range 8).foldl
                (fun acc k => acc ^^^ gf8mul (byteAt s.block (8 * c + k))
                  ([0xAD#8, 0x95#8, 0x76#8, 0xA8#8, 0x2F#8, 0x49#8, 0xD7#8, 0xCA#8].getD ((k + 8 - r) % 8) 0#8))
                0#8)
        ∧ ∀ i < 64, 16 * 2 ^ s.kcfgBlk.toNat ≤ i → byteAt b i = byteAt s.block i)

/-- Each inverse layer command after its layer restores BLOCK (R207, R209, R211, with R197); with the reserved block size all
six are INVALID_KEY_SIZE (R205). -/
def Obligations.SpnLayersInvert : Prop :=
  ∀ s,
    (s.kcfgBlk ≠ 3#2 →
        (∃ t u, exec .spnsb s = .next t ∧ exec .spnisb t = .next u ∧ u.block = s.block)
          ∧ (∃ t u, exec .spnsr s = .next t ∧ exec .spnisr t = .next u ∧ u.block = s.block)
          ∧ (∃ t u, exec .spnmc s = .next t ∧ exec .spnimc t = .next u ∧ u.block = s.block))
      ∧ (s.kcfgBlk = 3#2 →
        ∀ i ∈ [Instr.spnsb, .spnisb, .spnsr, .spnisr, .spnmc, .spnimc],
          exec i s = .next (failed s .invalidKeySize))

/-- ENC and DEC (R198 to R201, R212, R213): without a schedule NOT_READY; with one, the block of the latched size is encrypted
or decrypted under RK[0..NR] by the rounds of SPN_ENC or SPN_DEC, step by step (`IsSpnEnc`, `IsSpnDec`: ModAdd by columns for
the first and the last key, Xor between; SB then SR in each round, MC in each but the last), and the bytes past it keep their
value. Nothing of KCFG or KEY enters. -/
def Obligations.CipherCommands : Prop :=
  ∀ s nb, nb = 2 * 2 ^ s.schedBlk.toNat →
    (s.schedValid = false →
        exec .enc s = .next (failed s .notReady) ∧ exec .dec s = .next (failed s .notReady))
      ∧ (s.schedValid = true → s.schedBlk ≠ 3#2 →
        (∃ b, exec .enc s = .next (succeeded (s.setBlock b))
            ∧ IsSpnEnc nb s.schedNr.toNat (fun i => bytesOf (8 * nb) (s.getRk i)) (bytesOf (8 * nb) s.block)
                (bytesOf (8 * nb) b)
            ∧ bytesOf (8 * nb) b =
              spnEnc Config.ksb false nb s.schedNr.toNat (fun i => bytesOf (8 * nb) (s.getRk i))
                (bytesOf (8 * nb) s.block)
            ∧ ∀ i < 64, 8 * nb ≤ i → byteAt b i = byteAt s.block i)
          ∧ (∃ b, exec .dec s = .next (succeeded (s.setBlock b))
            ∧ IsSpnDec nb s.schedNr.toNat (fun i => bytesOf (8 * nb) (s.getRk i)) (bytesOf (8 * nb) s.block)
                (bytesOf (8 * nb) b)
            ∧ bytesOf (8 * nb) b =
              spnDec Config.ksb false nb s.schedNr.toNat (fun i => bytesOf (8 * nb) (s.getRk i))
                (bytesOf (8 * nb) s.block)
            ∧ ∀ i < 64, 8 * nb ≤ i → byteAt b i = byteAt s.block i))

/-- R202: decryption undoes encryption for every state, every key sequence and every number of rounds, whatever the S-boxes
and SPN_FINAL_MIX; so DEC after ENC restores BLOCK under every schedule of a legal block size, and ENC after DEC does too
(R213). -/
def Obligations.DecUndoesEnc : Prop :=
  (∀ box mix nb rounds key s, nb ∈ [2, 4, 8] → s.length = 8 * nb → (∀ i, (key i).length = 8 * nb) →
      spnDec box mix nb rounds key (spnEnc box mix nb rounds key s) = s
        ∧ spnEnc box mix nb rounds key (spnDec box mix nb rounds key s) = s)
    ∧ ∀ s, s.schedValid = true → s.schedBlk ≠ 3#2 →
      (∃ t u, exec .enc s = .next t ∧ exec .dec t = .next u ∧ u.block = s.block)
        ∧ (∃ t u, exec .dec s = .next t ∧ exec .enc t = .next u ∧ u.block = s.block)

/-! ### The key schedule (42_key_schedule.md) -/

/-- KEYEXP (R240, R241, R249, R250): on a row of R240 it stores the R + 1 round keys of EXPAND in RK0..RKR, zeros above
them and in every later slot, and describes them in SCHED; on any other pair it is INVALID_KEY_SIZE. -/
def Obligations.KeyexpSchedule : Prop :=
  ∀ s,
    (∀ row, (s.kcfgBlk, s.kcfgKlen, row) ∈ keyRows →
        ∃ slots rks,
          rks = expandKey Config.ksb row (bytesOf (8 * row.nk) s.key) ∧ rks.length = row.rounds + 1
            ∧ exec .keyexp s =
              .next (succeeded
                { s with
                  rk := slots, schedValid := true, schedBlk := s.kcfgBlk, schedKlen := s.kcfgKlen,
                  schedNr := BitVec.ofNat 5 row.rounds })
            ∧ ∀ i (h : i < 19),
              (i ≤ row.rounds →
                  rks[i]? = some (bytesOf (8 * row.nb) slots[i]) ∧ slots[i].toNat < 2 ^ (64 * row.nb))
                ∧ (row.rounds < i → slots[i] = 0#512))
      ∧ ((∀ row, (s.kcfgBlk, s.kcfgKlen, row) ∉ keyRows) →
        exec .keyexp s = .next (failed s .invalidKeySize))

/-- R246: after KEYEXP, each odd-numbered round key is the one before it, rotated left by 2·Nb + 3 bytes. -/
def Obligations.KeyexpOddKeys : Prop :=
  ∀ s row, (s.kcfgBlk, s.kcfgKlen, row) ∈ keyRows →
    ∃ t, exec .keyexp s = .next t
      ∧ ∀ i < row.rounds, i % 2 = 1 → ∀ j < 8 * row.nb,
        byteAt (t.getRk i) j = byteAt (t.getRk (i - 1)) ((j + 2 * row.nb + 3) % (8 * row.nb))

/-- The even-numbered round keys in closed form (R242 to R245): key 2n is the transform T, under Kt, of the key's bytes rotated
by n words (when Nk = Nb), or of its low or high half after n/2 rotations (when Nk = 2 Nb), with the constant
0x0001000100010001 shifted left n times in each word. Kt and T are said step by step (`IsStageKt`, `IsKeyTransform`), with
the round G = MC(SR(SB)) of R203; they are the model's `stageKt` and `keyTransform`. -/
def Obligations.KeyexpEvenKeys : Prop :=
  ∀ s row, (s.kcfgBlk, s.kcfgKlen, row) ∈ keyRows →
    ∃ t kt, exec .keyexp s = .next t ∧ IsStageKt row.nb row.nk s.key kt
      ∧ kt = stageKt Config.ksb row.nb row.nk (bytesOf (8 * row.nk) s.key)
      ∧ ∀ n ≤ row.rounds / 2, ∃ d c,
        d = ((List.range (8 * row.nb)).map fun j =>
            byteAt s.key
              ((j + if row.nk = row.nb then 8 * n else 8 * (n / 2) + 8 * row.nb * (n % 2)) % (8 * row.nk)))
          ∧ (∀ col < row.nb, columnInt c col = 0x0001000100010001 * 2 ^ n % 2 ^ 64)
          ∧ IsKeyTransform row.nb kt d c (bytesOf (8 * row.nb) (t.getRk (2 * n)))
          ∧ bytesOf (8 * row.nb) (t.getRk (2 * n)) = keyTransform Config.ksb row.nb kt d c

/-- R248: two KEYEXP commands with the same KCFG and the same KEY bytes 0..K/8-1 leave identical RK and SCHED contents,
whatever else differs. -/
def Obligations.KeyexpDeterministic : Prop :=
  ∀ s s' row, (s.kcfgBlk, s.kcfgKlen, row) ∈ keyRows → s'.kcfgBlk = s.kcfgBlk → s'.kcfgKlen = s.kcfgKlen →
    (∀ i < 8 * row.nk, byteAt s'.key i = byteAt s.key i) →
    ∃ t t', exec .keyexp s = .next t ∧ exec .keyexp s' = .next t'
      ∧ t'.rk = t.rk ∧ t'.schedValid = t.schedValid ∧ t'.schedBlk = t.schedBlk
      ∧ t'.schedKlen = t.schedKlen ∧ t'.schedNr = t.schedNr

/-! ### The hash (43_hash.md) -/

/-- HINIT, HUPD and HFIN n (R271, R272, R280, R281, R283): the new digest, checksum and length. For HFIN, `m` is the first n
bytes of HMSG followed by zero bytes. `compress` is the function f of R270, as HashTransforms says. -/
def Obligations.HashCommands : Prop :=
  (∀ s, exec .hinit s =
      .next (succeeded { s with hh := s.hiv, hsig := 0#256, hlen := 0#256, hst := .active }))
    ∧ (∀ s, s.hst = .active → exec .hupd s =
        .next (succeeded
          { s with hh := compress s.hh s.hmsg, hsig := s.hsig + s.hmsg, hlen := s.hlen + 256#256 }))
    ∧ (∀ s, s.hst = .active → exec (.hfin 0) s =
        .next (succeeded
          { s with hh := compress (compress s.hh s.hlen) s.hsig, hst := .final }))
    ∧ (∀ (s : State) (n : Fin 64) (m sig len : HashWord), s.hst = .active → 0 < n.val → n.val ≤ 32 →
        (∀ j < 32, byteAt m j = if j < n.val then byteAt s.hmsg j else 0#8) →
        sig = s.hsig + m → len = s.hlen + BitVec.ofNat 256 (8 * n.val) →
        exec (.hfin n) s =
          .next (succeeded
            { s with
              hh := compress (compress (compress s.hh m) len) sig, hsig := sig, hlen := len, hst := .final }))

/-- A last full block may be absorbed by HUPD and then HFIN 0, or by HFIN 32: digest, checksum, length and lifecycle end the
same (R281, R284). -/
def Obligations.HashSplit : Prop :=
  ∀ s, s.hst = .active →
    ∃ t u v, exec .hupd s = .next t ∧ exec (.hfin 0) t = .next u ∧ exec (.hfin 32) s = .next v
      ∧ u.hh = v.hh ∧ u.hsig = v.hsig ∧ u.hlen = v.hlen ∧ u.hst = v.hst

/-- R274: the lifecycle of the hash. HINIT always makes it ACTIVE; HUPD and HFIN need ACTIVE, else they are NOT_READY and
leave it unchanged; HFIN makes it FINAL, and there it stays, with HH, until a HINIT. -/
def Obligations.HashLifecycle : Prop :=
  ∀ (s : State) (n : Fin 64),
    (∃ t, exec .hinit s = .next t ∧ t.err = .ok ∧ t.hst = .active)
      ∧ (s.hst = .active → ∃ t, exec .hupd s = .next t ∧ t.err = .ok ∧ t.hst = .active)
      ∧ (s.hst = .active → n.val ≤ 32 →
          ∃ t, exec (.hfin n) s = .next t ∧ t.err = .ok ∧ t.hst = .final)
      ∧ (s.hst = .active → 32 < n.val → exec (.hfin n) s = .next (failed s .invalidLength))
      ∧ (s.hst ≠ .active →
          exec .hupd s = .next (failed s .notReady) ∧ exec (.hfin n) s = .next (failed s .notReady))
      ∧ (s.hst = .final → ∀ i t, i ≠ .hinit → exec i s = .next t → t.hst = .final ∧ t.hh = s.hh)

/-- The mixing transforms, word by word and byte by byte (R266 to R268): A shifts the 64-bit words down and puts y0 ^ y1 on
top; P moves byte 8i + k to byte i + 4k; ψ shifts the 16-bit words down and puts z0 ^ z1 ^ z2 ^ z3 ^ z12 ^ z15 on top. And
what f is made of them (R262 to R265, R269, R270): the S-box rows, the bytes of C3, g, the 32 rounds of E, the four keys, the
encrypted words of H, and the closing ψ chain. -/
def Obligations.HashTransforms : Prop :=
  (∀ y : HashWord,
    ((∀ i < 3, (mixA y).extractLsb' (64 * i) 64 = y.extractLsb' (64 * (i + 1)) 64)
        ∧ (mixA y).extractLsb' 192 64 = y.extractLsb' 0 64 ^^^ y.extractLsb' 64 64)
      ∧ (∀ i < 4, ∀ k < 8, byteAt (mixP y) (i + 4 * k) = byteAt y (8 * i + k))
      ∧ ((∀ i < 15, (psi y).extractLsb' (16 * i) 16 = y.extractLsb' (16 * (i + 1)) 16)
        ∧ (psi y).extractLsb' 240 16 =
          y.extractLsb' 0 16 ^^^ y.extractLsb' 16 16 ^^^ y.extractLsb' 32 16 ^^^ y.extractLsb' 48 16
            ^^^ y.extractLsb' 192 16 ^^^ y.extractLsb' 240 16))
    ∧ (∀ h m, IsCompress h m (compress h m))
    ∧ (∀ key x, IsGostE key x (gostE key x))
    ∧ (∀ x k, IsGostG x k (gostG x k))
    ∧ bytesOf 32 hc3 =
      [0x00#8, 0xFF#8, 0x00#8, 0xFF#8, 0x00#8, 0xFF#8, 0x00#8, 0xFF#8,
       0xFF#8, 0x00#8, 0xFF#8, 0x00#8, 0xFF#8, 0x00#8, 0xFF#8, 0x00#8,
       0x00#8, 0xFF#8, 0xFF#8, 0x00#8, 0xFF#8, 0x00#8, 0x00#8, 0xFF#8,
       0xFF#8, 0x00#8, 0x00#8, 0x00#8, 0xFF#8, 0xFF#8, 0x00#8, 0xFF#8]
    ∧ hashBoxes =
      [[4, 10, 9, 2, 13, 8, 0, 14, 6, 11, 1, 12, 7, 15, 5, 3], [14, 11, 4, 12, 6, 13, 15, 10, 2, 3, 8, 1, 0, 7, 5, 9],
       [5, 8, 1, 13, 10, 3, 4, 2, 14, 15, 12, 7, 6, 0, 9, 11], [7, 13, 10, 1, 0, 8, 9, 15, 14, 4, 6, 12, 11, 2, 5, 3],
       [6, 12, 7, 1, 5, 15, 13, 8, 4, 10, 9, 14, 0, 3, 11, 2], [4, 11, 10, 0, 7, 2, 1, 13, 3, 6, 8, 5, 9, 12, 15, 14],
       [13, 11, 4, 1, 3, 15, 5, 9, 0, 10, 14, 7, 6, 8, 2, 12], [1, 15, 13, 0, 5, 7, 10, 4, 9, 2, 3, 14, 6, 11, 8, 12]]

/-! ### The curve (44_curve.md) -/

/-- R302: writing a point writes E[2d], E[2d+1] and PINF[d] and nothing else; O is written as 0, 0, 1. -/
def Obligations.PointWrite : Prop :=
  ∀ (s : State) (d : PReg) (q : Point),
    ((s.setP d q).getE (xReg d), (s.setP d q).getE (yReg d), (s.setP d q).getInf d) =
        (match q with
          | .infinity => (0#512, 0#512, true)
          | .affine x y => (x, y, false))
      ∧ (∀ i, i ≠ xReg d → i ≠ yReg d → (s.setP d q).getE i = s.getE i)
      ∧ (∀ k, k ≠ d → (s.setP d q).getInf k = s.getInf k)
      ∧ { s.setP d q with e := s.e, pinf := s.pinf } = s

/-- R313: PCHK answers in ONC whether the point is O, or canonical and on the curve; without LOCK it is NOT_READY. -/
def Obligations.PchkAnswers : Prop :=
  ∀ s k,
    (s.lock = true → ConfigOk s →
        ∃ b : Bool, (b = true ↔ PointOk s k)
          ∧ exec (.pchk k) s = .next (succeeded { s with onc := b }))
      ∧ (s.lock = false → exec (.pchk k) s = .next (failed s .notReady))

/-- R308: the checks of PADD, PDBL, PNEG and SMUL: LOCK, then each point source in field order, first its coordinates and then
the curve equation; a source with INF = 1 is not checked. With every source good none of them is raised: what is left is OK,
or the INVALID_OPERAND of a division that fails (R307) and of SMUL's scalar (R314). -/
def Obligations.PointErrors : Prop :=
  ∀ s pd k k2 r,
    (s.lock = false →
        ∀ i ∈ [Instr.padd pd k k2, .pdbl pd k, .pneg pd k, .smul pd k r],
          exec i s = .next (failed s .notReady))
      ∧ (s.lock = true → ConfigOk s → PointNotCanonical s k →
        ∀ i ∈ [Instr.padd pd k k2, .pdbl pd k, .pneg pd k, .smul pd k r],
          exec i s = .next (failed s .invalidOperand))
      ∧ (s.lock = true → ConfigOk s → PointOffCurve s k →
        ∀ i ∈ [Instr.padd pd k k2, .pdbl pd k, .pneg pd k, .smul pd k r],
          exec i s = .next (failed s .pointNotOnCurve))
      ∧ (s.lock = true → ConfigOk s → PointOk s k → PointNotCanonical s k2 →
        exec (.padd pd k k2) s = .next (failed s .invalidOperand))
      ∧ (s.lock = true → ConfigOk s → PointOk s k → PointOffCurve s k2 →
        exec (.padd pd k k2) s = .next (failed s .pointNotOnCurve))
      ∧ (s.lock = true → ConfigOk s → PointOk s k → PointOk s k2 →
        ∃ t, exec (.padd pd k k2) s = .next t
          ∧ (t.err = .ok ∨ (t.err = .invalidOperand ∧ addPoint s.cf s.ca (s.getP k) (s.getP k2) = none)))
      ∧ (s.lock = true → ConfigOk s → PointOk s k →
        (∃ q, exec (.pneg pd k) s = .next (succeeded (s.setP pd q)))
          ∧ (∃ t, exec (.pdbl pd k) s = .next t
            ∧ (t.err = .ok ∨ (t.err = .invalidOperand ∧ dblPoint s.cf s.ca (s.getP k) = none)))
          ∧ ∃ t, exec (.smul pd k r) s = .next t
            ∧ (t.err = .ok ∨ (t.err = .invalidOperand
              ∧ (s.cn.toNat ≤ (s.getE r).toNat
                ∨ mulPoint s.cf s.ca (s.cn.toNat.log2 + 1) (s.getE r).toNat (s.getP k) = none))))

/-- PNEG and PDBL of a point that passes the checks (R304, R305, R307, R311, R312). A division by a non-unit of a reducible f
is INVALID_OPERAND. -/
def Obligations.PnegPdblResults : Prop :=
  ∀ s pd k x y, s.lock = true → ConfigOk s → PointOk s k → x = s.getE (xReg k) → y = s.getE (yReg k) →
    (s.getInf k = true →
        exec (.pneg pd k) s = .next (succeeded (s.setP pd .infinity))
          ∧ exec (.pdbl pd k) s = .next (succeeded (s.setP pd .infinity)))
      ∧ (s.getInf k = false → exec (.pneg pd k) s = .next (succeeded (s.setP pd (.affine x (x ^^^ y)))))
      ∧ (s.getInf k = false → x = 0#512 → exec (.pdbl pd k) s = .next (succeeded (s.setP pd .infinity)))
      ∧ (s.getInf k = false → (∃ w, Inverse s.cf.toNat x.toNat w) →
        ∃ l x3 y3, l < 2 ^ s.curveM.toNat ∧ x3 < 2 ^ s.curveM.toNat ∧ y3 < 2 ^ s.curveM.toNat
          ∧ DblFormula s.cf.toNat s.ca.toNat x.toNat y.toNat l x3 y3
          ∧ exec (.pdbl pd k) s =
            .next (succeeded (s.setP pd (.affine (BitVec.ofNat 512 x3) (BitVec.ofNat 512 y3)))))
      ∧ (s.getInf k = false → x ≠ 0#512 → (∀ w, ¬Inverse s.cf.toNat x.toNat w) →
        exec (.pdbl pd k) s = .next (failed s .invalidOperand))

/-- PADD of two points that pass the checks (R306, R307, R310), case by case of ADD: O and Q, P and O, P and P, P and -P,
and the addition formulas. -/
def Obligations.PaddResults : Prop :=
  ∀ s pd k1 k2 x1 y1 x2 y2, s.lock = true → ConfigOk s → PointOk s k1 → PointOk s k2 →
    x1 = s.getE (xReg k1) → y1 = s.getE (yReg k1) → x2 = s.getE (xReg k2) → y2 = s.getE (yReg k2) →
    (s.getInf k1 = true → exec (.padd pd k1 k2) s = .next (succeeded (s.setP pd (s.getP k2))))
      ∧ (s.getInf k1 = false → s.getInf k2 = true →
        exec (.padd pd k1 k2) s = .next (succeeded (s.setP pd (.affine x1 y1))))
      ∧ (s.getInf k1 = false → s.getInf k2 = false → x1 = x2 → y1 = y2 →
        exec (.padd pd k1 k2) s = exec (.pdbl pd k1) s)
      ∧ (s.getInf k1 = false → s.getInf k2 = false → x1 = x2 → y1 ≠ y2 →
        exec (.padd pd k1 k2) s = .next (succeeded (s.setP pd .infinity)))
      ∧ (s.getInf k1 = false → s.getInf k2 = false → (∃ w, Inverse s.cf.toNat (x1 ^^^ x2).toNat w) →
        ∃ l x3 y3, l < 2 ^ s.curveM.toNat ∧ x3 < 2 ^ s.curveM.toNat ∧ y3 < 2 ^ s.curveM.toNat
          ∧ AddFormula s.cf.toNat s.ca.toNat x1.toNat y1.toNat x2.toNat y2.toNat l x3 y3
          ∧ exec (.padd pd k1 k2) s =
            .next (succeeded (s.setP pd (.affine (BitVec.ofNat 512 x3) (BitVec.ofNat 512 y3)))))
      ∧ (s.getInf k1 = false → s.getInf k2 = false → x1 ≠ x2 →
        (∀ w, ¬Inverse s.cf.toNat (x1 ^^^ x2).toNat w) →
        exec (.padd pd k1 k2) s = .next (failed s .invalidOperand))

/-- SMUL of a point that passes the checks (R314): a scalar from CN up is INVALID_OPERAND; below CN the result is MUL(k, P)
over the bits of CN, or INVALID_OPERAND where a division fails; 0·P = O, k·O = O and 1·P = P. -/
def Obligations.SmulResults : Prop :=
  ∀ s pd k r, s.lock = true → ConfigOk s → PointOk s k →
    (s.cn.toNat ≤ (s.getE r).toNat → exec (.smul pd k r) s = .next (failed s .invalidOperand))
      ∧ ((s.getE r).toNat < s.cn.toNat →
        (∀ q, mulPoint s.cf s.ca (s.cn.toNat.log2 + 1) (s.getE r).toNat (s.getP k) = some q →
            exec (.smul pd k r) s = .next (succeeded (s.setP pd q)))
          ∧ (mulPoint s.cf s.ca (s.cn.toNat.log2 + 1) (s.getE r).toNat (s.getP k) = none →
            exec (.smul pd k r) s = .next (failed s .invalidOperand))
          ∧ ((s.getE r).toNat = 0 ∨ s.getInf k = true →
            exec (.smul pd k r) s = .next (succeeded (s.setP pd .infinity)))
          ∧ ((s.getE r).toNat = 1 → exec (.smul pd k r) s = .next (succeeded (s.setP pd (s.getP k)))))

/-- The scalar multiplication over one bit more (R315): MUL over t + 1 bits of 2k + b is the double of MUL over t bits of k,
plus P if b is 1; a failed doubling or addition fails it. -/
def Obligations.SmulDoubleAndAdd : Prop :=
  (∀ f a k p, mulPoint f a 0 k p = some .infinity)
    ∧ ∀ f a t k (b : Bool) p,
      mulPoint f a (t + 1) (2 * k + (if b then 1 else 0)) p =
        (mulPoint f a t k p).bind fun q =>
          (dblPoint f a q).bind fun q2 => if b then addPoint f a q2 p else some q2

/-- Addition of points that pass the checks commutes (R316), for every f, reducible or not: PADD with its sources exchanged
ends in the same state, or fails alike. -/
def Obligations.PaddCommutes : Prop :=
  ∀ s pd k1 k2, s.lock = true → ConfigOk s → PointOk s k1 → PointOk s k2 →
    ∃ t, exec (.padd pd k1 k2) s = .next t ∧ exec (.padd pd k2 k1) s = .next t

/-- Results stay on the curve (R309): a PADD, PDBL, PNEG or SMUL that completes with OK leaves a point in PD that passes the
checks. The model has it for every f, not only for irreducible f. -/
def Obligations.ResultsOnCurve : Prop :=
  ∀ s pd k k2 r, s.lock = true → ConfigOk s →
    ∀ i ∈ [Instr.padd pd k k2, .pdbl pd k, .pneg pd k, .smul pd k r],
      ∃ t, exec i s = .next t ∧ (t.err = .ok → PointOk t pd)

end
end

