-- ==== Sys2Proof/Laws/ByteArray.lean ====
section
/-! SUPPORT. Registers as byte arrays: what reading a byte or a word after each operation gives. -/

namespace Sys2Proof.Machine

@[simp] theorem length_bytesOf {w : Nat} (n : Nat) (v : BitVec w) : (bytesOf n v).length = n := by
  simp [bytesOf]

theorem getD_bytesOf {w : Nat} (n : Nat) (v : BitVec w) (j : Nat) (h : j < n) :
    (bytesOf n v).getD j 0#8 = byteAt v j := by
  simp [bytesOf, List.getD, h]

theorem getLsbD_byteAt {w : Nat} (v : BitVec w) (j b : Nat) :
    (byteAt v j).getLsbD b = (decide (b < 8) && v.getLsbD (8 * j + b)) := by
  simp [byteAt, BitVec.getLsbD_extractLsb']

/-- A byte array is its bytes. -/
theorem bytes_ext {a b : Bytes} (hl : a.length = b.length) (h : ∀ j < a.length, a.getD j 0#8 = b.getD j 0#8) :
    a = b := by
  apply List.ext_getElem hl
  intro j hj hj'
  have := h j hj
  simpa [List.getD, hj, hj'] using this

theorem intOf_lt (bs : Bytes) : intOf bs < 2 ^ (8 * bs.length) := by
  induction bs with
  | nil => simp [intOf]
  | cons b bs ih =>
    have hb := b.isLt
    simp only [intOf, List.length_cons, Nat.mul_add, Nat.mul_one, pow_add]
    have : (256 : Nat) = 2 ^ 8 := by norm_num
    omega

/-- Bit i of `int(b)` is bit i mod 8 of byte i div 8. -/
theorem testBit_intOf (bs : Bytes) (i : Nat) : (intOf bs).testBit i = (bs.getD (i / 8) 0#8).getLsbD (i % 8) := by
  induction bs generalizing i with
  | nil => simp [intOf]
  | cons b bs ih =>
    have hb := b.isLt
    have e : intOf (b :: bs) = 2 ^ 8 * intOf bs + b.toNat := by rw [intOf]; omega
    rw [e, Nat.testBit_two_pow_mul_add _ hb]
    split
    · rename_i h
      have h1 : i / 8 = 0 := by omega
      have h2 : i % 8 = i := by omega
      simp [h1, h2, BitVec.getLsbD]
    · rename_i h
      have h1 : i / 8 = (i - 8) / 8 + 1 := by omega
      have h2 : i % 8 = (i - 8) % 8 := by omega
      rw [ih, h1, h2]
      simp [List.getD]

/-- What `putBytes` writes: the bytes of bs in the low bytes, and every other byte as it was. -/
theorem byteAt_putBytes (v : BitVec 512) (bs : Bytes) (j : Nat) (hj : j < 64) :
    byteAt (putBytes v bs) j = if j < bs.length then bs.getD j 0#8 else byteAt v j := by
  apply BitVec.eq_of_getLsbD_eq
  intro b hb
  have hj' : 8 * j + b < 512 := by omega
  have h1 : (8 * j + b) / 8 = j := by omega
  have h2 : (8 * j + b) % 8 = b := by omega
  rw [getLsbD_byteAt, putBytes, BitVec.getLsbD_or, BitVec.getLsbD_shiftLeft, BitVec.getLsbD_ushiftRight,
    BitVec.getLsbD_ofNat, testBit_intOf, h1, h2]
  by_cases h : j < bs.length
  · have h3 : 8 * j + b < 8 * bs.length := by omega
    simp [hb, hj', h3, h]
  · have h3 : ¬8 * j + b < 8 * bs.length := by omega
    have h4 : 8 * bs.length + (8 * j + b - 8 * bs.length) = 8 * j + b := by omega
    have h5 : bs.getD j 0#8 = 0#8 := by simp [List.getD, h]
    simp only [h, if_false, h3, h4, hb, hj', h5, getLsbD_byteAt, decide_true, decide_false, Bool.not_false,
      Bool.true_and, BitVec.getLsbD_zero, Bool.and_false, Bool.or_false]

/-- Reading back a block that was put. -/
theorem bytesOf_putBytes (v : BitVec 512) (bs : Bytes) (h : bs.length ≤ 64) :
    bytesOf bs.length (putBytes v bs) = bs := by
  apply bytes_ext (by simp)
  intro j hj
  have hj' : j < bs.length := by simpa using hj
  rw [getD_bytesOf _ _ _ hj', byteAt_putBytes _ _ _ (by omega), if_pos hj']

theorem byteAt_zextBytes (bs : Bytes) (j : Nat) (hj : j < 64) : byteAt (zextBytes bs) j = bs.getD j 0#8 := by
  apply BitVec.eq_of_getLsbD_eq
  intro b hb
  have hj' : 8 * j + b < 512 := by omega
  have h1 : (8 * j + b) / 8 = j := by omega
  have h2 : (8 * j + b) % 8 = b := by omega
  rw [getLsbD_byteAt, zextBytes, BitVec.getLsbD_ofNat, testBit_intOf, h1, h2]
  simp [hb, hj']

theorem toNat_zextBytes_lt (bs : Bytes) : (zextBytes bs).toNat < 2 ^ (8 * bs.length) := by
  rw [zextBytes, BitVec.toNat_ofNat]
  exact lt_of_le_of_lt (Nat.mod_le _ _) (intOf_lt bs)

theorem bytesOf_zextBytes (bs : Bytes) (h : bs.length ≤ 64) : bytesOf bs.length (zextBytes bs) = bs := by
  apply bytes_ext (by simp)
  intro j hj
  have hj' : j < bs.length := by simpa using hj
  rw [getD_bytesOf _ _ _ hj', byteAt_zextBytes _ _ (by omega)]

/-! ### Bus words -/

theorem getLsbD_wordAt {n : Nat} (v : BitVec n) (w b : Nat) :
    (wordAt v w).getLsbD b = (decide (b < 32) && v.getLsbD (32 * w + b)) := by
  simp [wordAt, BitVec.getLsbD_extractLsb']

theorem getLsbD_putWord {n : Nat} (v : BitVec n) (w : Nat) (x : Word) (i : Nat) (hi : i < n) :
    (putWord v w x).getLsbD i =
      if 32 * w ≤ i ∧ i < 32 * w + 32 then x.getLsbD (i - 32 * w) else v.getLsbD i := by
  have hm : ∀ k, (0xFFFFFFFF#32).getLsbD k = decide (k < 32) := by
    intro k
    by_cases hk : k < 32
    · rw [show (0xFFFFFFFF#32 : Word) = BitVec.allOnes 32 from rfl, BitVec.getLsbD_allOnes]
    · rw [BitVec.getLsbD_of_ge _ _ (by omega), decide_eq_false hk]
  rw [putWord, BitVec.getLsbD_or, BitVec.getLsbD_and, BitVec.getLsbD_not, BitVec.getLsbD_shiftLeft,
    BitVec.getLsbD_shiftLeft, BitVec.getLsbD_setWidth, BitVec.getLsbD_setWidth, hm]
  by_cases h1 : i < 32 * w
  · have : ¬(32 * w ≤ i ∧ i < 32 * w + 32) := by omega
    simp [h1, this, hi]
  · by_cases h2 : i < 32 * w + 32
    · have h3 : 32 * w ≤ i ∧ i < 32 * w + 32 := by omega
      have h4 : i - 32 * w < 32 := by omega
      have h5 : i - 32 * w < n := by omega
      simp only [h1, h3, h4, h5, hi, decide_true, decide_false, Bool.not_false, Bool.true_and, Bool.and_true,
        Bool.not_true, Bool.and_false, Bool.false_or, and_self, if_true]
    · have h3 : ¬(32 * w ≤ i ∧ i < 32 * w + 32) := by omega
      have h4 : ¬i - 32 * w < 32 := by omega
      have h5 : x.getLsbD (i - 32 * w) = false := BitVec.getLsbD_of_ge _ _ (by omega)
      simp only [h1, h3, h4, h5, hi, decide_true, decide_false, Bool.not_false, Bool.and_true, Bool.and_false,
        Bool.or_false, if_false]

/-- A word that was put reads back. -/
theorem wordAt_putWord_same {n : Nat} (v : BitVec n) (w : Nat) (x : Word) (h : 32 * w + 32 ≤ n) :
    wordAt (putWord v w x) w = x := by
  apply BitVec.eq_of_getLsbD_eq
  intro b hb
  rw [getLsbD_wordAt, getLsbD_putWord _ _ _ _ (by omega), if_pos (by omega)]
  simp [hb]

/-- Every other word is as it was. -/
theorem wordAt_putWord_ne {n : Nat} (v : BitVec n) (w u : Nat) (x : Word) (h : u ≠ w) (hu : 32 * u + 32 ≤ n) :
    wordAt (putWord v w x) u = wordAt v u := by
  apply BitVec.eq_of_getLsbD_eq
  intro b hb
  rw [getLsbD_wordAt, getLsbD_wordAt, getLsbD_putWord _ _ _ _ (by omega), if_neg (by omega)]

end Sys2Proof.Machine
end

