-- ==== Sys2Proof/Laws/Hash.lean ====
section
/-! SUPPORT. The hash: the nibbles of Sub, the words of sums of shifted words, and powers of ψ. -/

namespace Sys2Proof.Machine

/-- ψ^n as an iterate. -/
theorem psiPow_eq_iterate (n : Nat) (y : HashWord) : psiPow n y = psi^[n] y := by
  induction n with
  | zero => rfl
  | succ n ih => rw [psiPow, ih, Function.iterate_succ_apply']

/-- A sum of n digits in base 2^w is below 2^(w·n). -/
theorem digitSum_lt (w : Nat) (d : Nat → Nat) (n : Nat) (h : ∀ j < n, d j < 2 ^ w) :
    (List.range n).foldl (fun acc j => acc + d j * 2 ^ (w * j)) 0 < 2 ^ (w * n) := by
  induction n with
  | zero => simp
  | succ n ih =>
    rw [List.range_succ, List.foldl_append, List.foldl_cons, List.foldl_nil, Nat.mul_succ, pow_add]
    have h1 := ih fun j hj => h j (by omega)
    have h2 := Nat.mul_le_mul_right (2 ^ (w * n)) (h n (by omega))
    rw [Nat.succ_mul, Nat.mul_comm (2 ^ w)] at h2
    omega

/-- Digit i of a sum of n digits in base 2^w is d i. -/
theorem digitSum_digit (w : Nat) (d : Nat → Nat) (n i : Nat) (h : ∀ j < n, d j < 2 ^ w) (hi : i < n) :
    (List.range n).foldl (fun acc j => acc + d j * 2 ^ (w * j)) 0 / 2 ^ (w * i) % 2 ^ w = d i := by
  induction n with
  | zero => omega
  | succ n ih =>
    rw [List.range_succ, List.foldl_append, List.foldl_cons, List.foldl_nil]
    have hlt := digitSum_lt w d n fun j hj => h j (by omega)
    by_cases hin : i < n
    · obtain ⟨k, rfl⟩ := Nat.exists_eq_add_of_lt hin
      rw [show d (i + k + 1) * 2 ^ (w * (i + k + 1)) = 2 ^ (w * i) * (2 ^ w * (d (i + k + 1) * 2 ^ (w * k))) by ring,
        Nat.add_mul_div_left _ _ (by positivity), Nat.add_mul_mod_self_left]
      exact ih (fun j hj => h j (by omega)) hin
    · have e : i = n := by omega
      subst e
      rw [Nat.mul_comm (d i), Nat.add_mul_div_left _ _ (by positivity), Nat.div_eq_of_lt hlt, Nat.zero_add,
        Nat.mod_eq_of_lt (h i (by omega))]

/-- Nibble j of `Sub(t)` is HSBj of nibble j of t (R263). -/
theorem nibble_hashSub (t : Word) (j : Nat) (hj : j < 8) :
    ((hashSub t).extractLsb' (4 * j) 4).toNat = hashBox j (t.extractLsb' (4 * j) 4).toNat := by
  have hd : ∀ i < 8, hashBox i (t.toNat / 2 ^ (4 * i) % 16) < 2 ^ 4 := by
    intro i hi
    have hx : t.toNat / 2 ^ (4 * i) % 16 < 16 := Nat.mod_lt _ (by omega)
    generalize t.toNat / 2 ^ (4 * i) % 16 = x at hx
    revert x
    revert i
    decide
  rw [BitVec.extractLsb'_toNat, BitVec.extractLsb'_toNat, hashSub, BitVec.toNat_ofNat,
    Nat.mod_eq_of_lt (digitSum_lt 4 _ 8 hd), Nat.shiftRight_eq_div_pow, Nat.shiftRight_eq_div_pow,
    digitSum_digit 4 _ 8 j hd hj]

/-- Word i of S is the encryption of word i of H under the key of that word (R270). -/
theorem word_hashCipher (h m : HashWord) (i : Nat) (hi : i < 4) :
    (hashCipher h m).extractLsb' (64 * i) 64 = gostE ((hashKeys h m).getD i 0#256) (h.extractLsb' (64 * i) 64) := by
  have hd : ∀ j < 4, (gostE ((hashKeys h m).getD j 0#256) (word64 h j)).toNat < 2 ^ 64 := fun j _ => BitVec.isLt _
  apply BitVec.eq_of_toNat_eq
  rw [BitVec.extractLsb'_toNat, hashCipher, BitVec.toNat_ofNat, Nat.mod_eq_of_lt (digitSum_lt 64 _ 4 hd),
    Nat.shiftRight_eq_div_pow, digitSum_digit 64 _ 4 i hd hi, word64]

end Sys2Proof.Machine
end

