-- ==== Sys2Proof/Laws/State.lean ====
section
/-! SUPPORT. One lemma per field per update of State: what the update leaves in that field. -/

namespace Sys2Proof.Machine

variable (s : State)

/-! ### `E[i] <- v` -/

@[simp] theorem setE_e (i : EReg) (v : Elem) : (s.setE i v).e = s.e.set i.val v := rfl
@[simp] theorem setE_pinf (i : EReg) (v : Elem) : (s.setE i v).pinf = s.pinf := rfl
@[simp] theorem setE_key (i : EReg) (v : Elem) : (s.setE i v).key = s.key := rfl
@[simp] theorem setE_block (i : EReg) (v : Elem) : (s.setE i v).block = s.block := rfl
@[simp] theorem setE_kcfgBlk (i : EReg) (v : Elem) : (s.setE i v).kcfgBlk = s.kcfgBlk := rfl
@[simp] theorem setE_kcfgKlen (i : EReg) (v : Elem) : (s.setE i v).kcfgKlen = s.kcfgKlen := rfl
@[simp] theorem setE_curveM (i : EReg) (v : Elem) : (s.setE i v).curveM = s.curveM := rfl
@[simp] theorem setE_cf (i : EReg) (v : Elem) : (s.setE i v).cf = s.cf := rfl
@[simp] theorem setE_ca (i : EReg) (v : Elem) : (s.setE i v).ca = s.ca := rfl
@[simp] theorem setE_cb (i : EReg) (v : Elem) : (s.setE i v).cb = s.cb := rfl
@[simp] theorem setE_cn (i : EReg) (v : Elem) : (s.setE i v).cn = s.cn := rfl
@[simp] theorem setE_rk (i : EReg) (v : Elem) : (s.setE i v).rk = s.rk := rfl
@[simp] theorem setE_schedValid (i : EReg) (v : Elem) : (s.setE i v).schedValid = s.schedValid := rfl
@[simp] theorem setE_schedBlk (i : EReg) (v : Elem) : (s.setE i v).schedBlk = s.schedBlk := rfl
@[simp] theorem setE_schedKlen (i : EReg) (v : Elem) : (s.setE i v).schedKlen = s.schedKlen := rfl
@[simp] theorem setE_schedNr (i : EReg) (v : Elem) : (s.setE i v).schedNr = s.schedNr := rfl
@[simp] theorem setE_hiv (i : EReg) (v : Elem) : (s.setE i v).hiv = s.hiv := rfl
@[simp] theorem setE_hmsg (i : EReg) (v : Elem) : (s.setE i v).hmsg = s.hmsg := rfl
@[simp] theorem setE_hh (i : EReg) (v : Elem) : (s.setE i v).hh = s.hh := rfl
@[simp] theorem setE_hsig (i : EReg) (v : Elem) : (s.setE i v).hsig = s.hsig := rfl
@[simp] theorem setE_hlen (i : EReg) (v : Elem) : (s.setE i v).hlen = s.hlen := rfl
@[simp] theorem setE_hst (i : EReg) (v : Elem) : (s.setE i v).hst = s.hst := rfl
@[simp] theorem setE_busy (i : EReg) (v : Elem) : (s.setE i v).busy = s.busy := rfl
@[simp] theorem setE_done (i : EReg) (v : Elem) : (s.setE i v).done = s.done := rfl
@[simp] theorem setE_err (i : EReg) (v : Elem) : (s.setE i v).err = s.err := rfl
@[simp] theorem setE_lock (i : EReg) (v : Elem) : (s.setE i v).lock = s.lock := rfl
@[simp] theorem setE_onc (i : EReg) (v : Elem) : (s.setE i v).onc = s.onc := rfl
@[simp] theorem setE_werr (i : EReg) (v : Elem) : (s.setE i v).werr = s.werr := rfl
@[simp] theorem setE_cmd (i : EReg) (v : Elem) : (s.setE i v).cmd = s.cmd := rfl
@[simp] theorem setE_irqDoneEn (i : EReg) (v : Elem) : (s.setE i v).irqDoneEn = s.irqDoneEn := rfl
@[simp] theorem setE_irqErrEn (i : EReg) (v : Elem) : (s.setE i v).irqErrEn = s.irqErrEn := rfl
@[simp] theorem setE_irqDone (i : EReg) (v : Elem) : (s.setE i v).irqDone = s.irqDone := rfl
@[simp] theorem setE_irqErr (i : EReg) (v : Elem) : (s.setE i v).irqErr = s.irqErr := rfl
@[simp] theorem setE_port (i : EReg) (v : Elem) : (s.setE i v).port = s.port := rfl
@[simp] theorem setE_answer (i : EReg) (v : Elem) : (s.setE i v).answer = s.answer := rfl
@[simp] theorem setE_delay (i : EReg) (v : Elem) : (s.setE i v).delay = s.delay := rfl
@[simp] theorem setE_draws (i : EReg) (v : Elem) : (s.setE i v).draws = s.draws := rfl

/-! ### `PINF[k] <- b` -/

@[simp] theorem setInf_e (k : PReg) (b : Bool) : (s.setInf k b).e = s.e := rfl
@[simp] theorem setInf_pinf (k : PReg) (b : Bool) : (s.setInf k b).pinf = putBit s.pinf k.val b := rfl
@[simp] theorem setInf_key (k : PReg) (b : Bool) : (s.setInf k b).key = s.key := rfl
@[simp] theorem setInf_block (k : PReg) (b : Bool) : (s.setInf k b).block = s.block := rfl
@[simp] theorem setInf_kcfgBlk (k : PReg) (b : Bool) : (s.setInf k b).kcfgBlk = s.kcfgBlk := rfl
@[simp] theorem setInf_kcfgKlen (k : PReg) (b : Bool) : (s.setInf k b).kcfgKlen = s.kcfgKlen := rfl
@[simp] theorem setInf_curveM (k : PReg) (b : Bool) : (s.setInf k b).curveM = s.curveM := rfl
@[simp] theorem setInf_cf (k : PReg) (b : Bool) : (s.setInf k b).cf = s.cf := rfl
@[simp] theorem setInf_ca (k : PReg) (b : Bool) : (s.setInf k b).ca = s.ca := rfl
@[simp] theorem setInf_cb (k : PReg) (b : Bool) : (s.setInf k b).cb = s.cb := rfl
@[simp] theorem setInf_cn (k : PReg) (b : Bool) : (s.setInf k b).cn = s.cn := rfl
@[simp] theorem setInf_rk (k : PReg) (b : Bool) : (s.setInf k b).rk = s.rk := rfl
@[simp] theorem setInf_schedValid (k : PReg) (b : Bool) : (s.setInf k b).schedValid = s.schedValid := rfl
@[simp] theorem setInf_schedBlk (k : PReg) (b : Bool) : (s.setInf k b).schedBlk = s.schedBlk := rfl
@[simp] theorem setInf_schedKlen (k : PReg) (b : Bool) : (s.setInf k b).schedKlen = s.schedKlen := rfl
@[simp] theorem setInf_schedNr (k : PReg) (b : Bool) : (s.setInf k b).schedNr = s.schedNr := rfl
@[simp] theorem setInf_hiv (k : PReg) (b : Bool) : (s.setInf k b).hiv = s.hiv := rfl
@[simp] theorem setInf_hmsg (k : PReg) (b : Bool) : (s.setInf k b).hmsg = s.hmsg := rfl
@[simp] theorem setInf_hh (k : PReg) (b : Bool) : (s.setInf k b).hh = s.hh := rfl
@[simp] theorem setInf_hsig (k : PReg) (b : Bool) : (s.setInf k b).hsig = s.hsig := rfl
@[simp] theorem setInf_hlen (k : PReg) (b : Bool) : (s.setInf k b).hlen = s.hlen := rfl
@[simp] theorem setInf_hst (k : PReg) (b : Bool) : (s.setInf k b).hst = s.hst := rfl
@[simp] theorem setInf_busy (k : PReg) (b : Bool) : (s.setInf k b).busy = s.busy := rfl
@[simp] theorem setInf_done (k : PReg) (b : Bool) : (s.setInf k b).done = s.done := rfl
@[simp] theorem setInf_err (k : PReg) (b : Bool) : (s.setInf k b).err = s.err := rfl
@[simp] theorem setInf_lock (k : PReg) (b : Bool) : (s.setInf k b).lock = s.lock := rfl
@[simp] theorem setInf_onc (k : PReg) (b : Bool) : (s.setInf k b).onc = s.onc := rfl
@[simp] theorem setInf_werr (k : PReg) (b : Bool) : (s.setInf k b).werr = s.werr := rfl
@[simp] theorem setInf_cmd (k : PReg) (b : Bool) : (s.setInf k b).cmd = s.cmd := rfl
@[simp] theorem setInf_irqDoneEn (k : PReg) (b : Bool) : (s.setInf k b).irqDoneEn = s.irqDoneEn := rfl
@[simp] theorem setInf_irqErrEn (k : PReg) (b : Bool) : (s.setInf k b).irqErrEn = s.irqErrEn := rfl
@[simp] theorem setInf_irqDone (k : PReg) (b : Bool) : (s.setInf k b).irqDone = s.irqDone := rfl
@[simp] theorem setInf_irqErr (k : PReg) (b : Bool) : (s.setInf k b).irqErr = s.irqErr := rfl
@[simp] theorem setInf_port (k : PReg) (b : Bool) : (s.setInf k b).port = s.port := rfl
@[simp] theorem setInf_answer (k : PReg) (b : Bool) : (s.setInf k b).answer = s.answer := rfl
@[simp] theorem setInf_delay (k : PReg) (b : Bool) : (s.setInf k b).delay = s.delay := rfl
@[simp] theorem setInf_draws (k : PReg) (b : Bool) : (s.setInf k b).draws = s.draws := rfl

/-! ### PWRITE -/

@[simp] theorem setP_key (d : PReg) (q : Point) : (s.setP d q).key = s.key := by cases q <;> rfl
@[simp] theorem setP_block (d : PReg) (q : Point) : (s.setP d q).block = s.block := by cases q <;> rfl
@[simp] theorem setP_kcfgBlk (d : PReg) (q : Point) : (s.setP d q).kcfgBlk = s.kcfgBlk := by cases q <;> rfl
@[simp] theorem setP_kcfgKlen (d : PReg) (q : Point) : (s.setP d q).kcfgKlen = s.kcfgKlen := by cases q <;> rfl
@[simp] theorem setP_curveM (d : PReg) (q : Point) : (s.setP d q).curveM = s.curveM := by cases q <;> rfl
@[simp] theorem setP_cf (d : PReg) (q : Point) : (s.setP d q).cf = s.cf := by cases q <;> rfl
@[simp] theorem setP_ca (d : PReg) (q : Point) : (s.setP d q).ca = s.ca := by cases q <;> rfl
@[simp] theorem setP_cb (d : PReg) (q : Point) : (s.setP d q).cb = s.cb := by cases q <;> rfl
@[simp] theorem setP_cn (d : PReg) (q : Point) : (s.setP d q).cn = s.cn := by cases q <;> rfl
@[simp] theorem setP_rk (d : PReg) (q : Point) : (s.setP d q).rk = s.rk := by cases q <;> rfl
@[simp] theorem setP_schedValid (d : PReg) (q : Point) : (s.setP d q).schedValid = s.schedValid := by cases q <;> rfl
@[simp] theorem setP_schedBlk (d : PReg) (q : Point) : (s.setP d q).schedBlk = s.schedBlk := by cases q <;> rfl
@[simp] theorem setP_schedKlen (d : PReg) (q : Point) : (s.setP d q).schedKlen = s.schedKlen := by cases q <;> rfl
@[simp] theorem setP_schedNr (d : PReg) (q : Point) : (s.setP d q).schedNr = s.schedNr := by cases q <;> rfl
@[simp] theorem setP_hiv (d : PReg) (q : Point) : (s.setP d q).hiv = s.hiv := by cases q <;> rfl
@[simp] theorem setP_hmsg (d : PReg) (q : Point) : (s.setP d q).hmsg = s.hmsg := by cases q <;> rfl
@[simp] theorem setP_hh (d : PReg) (q : Point) : (s.setP d q).hh = s.hh := by cases q <;> rfl
@[simp] theorem setP_hsig (d : PReg) (q : Point) : (s.setP d q).hsig = s.hsig := by cases q <;> rfl
@[simp] theorem setP_hlen (d : PReg) (q : Point) : (s.setP d q).hlen = s.hlen := by cases q <;> rfl
@[simp] theorem setP_hst (d : PReg) (q : Point) : (s.setP d q).hst = s.hst := by cases q <;> rfl
@[simp] theorem setP_busy (d : PReg) (q : Point) : (s.setP d q).busy = s.busy := by cases q <;> rfl
@[simp] theorem setP_done (d : PReg) (q : Point) : (s.setP d q).done = s.done := by cases q <;> rfl
@[simp] theorem setP_err (d : PReg) (q : Point) : (s.setP d q).err = s.err := by cases q <;> rfl
@[simp] theorem setP_lock (d : PReg) (q : Point) : (s.setP d q).lock = s.lock := by cases q <;> rfl
@[simp] theorem setP_onc (d : PReg) (q : Point) : (s.setP d q).onc = s.onc := by cases q <;> rfl
@[simp] theorem setP_werr (d : PReg) (q : Point) : (s.setP d q).werr = s.werr := by cases q <;> rfl
@[simp] theorem setP_cmd (d : PReg) (q : Point) : (s.setP d q).cmd = s.cmd := by cases q <;> rfl
@[simp] theorem setP_irqDoneEn (d : PReg) (q : Point) : (s.setP d q).irqDoneEn = s.irqDoneEn := by cases q <;> rfl
@[simp] theorem setP_irqErrEn (d : PReg) (q : Point) : (s.setP d q).irqErrEn = s.irqErrEn := by cases q <;> rfl
@[simp] theorem setP_irqDone (d : PReg) (q : Point) : (s.setP d q).irqDone = s.irqDone := by cases q <;> rfl
@[simp] theorem setP_irqErr (d : PReg) (q : Point) : (s.setP d q).irqErr = s.irqErr := by cases q <;> rfl
@[simp] theorem setP_port (d : PReg) (q : Point) : (s.setP d q).port = s.port := by cases q <;> rfl
@[simp] theorem setP_answer (d : PReg) (q : Point) : (s.setP d q).answer = s.answer := by cases q <;> rfl
@[simp] theorem setP_delay (d : PReg) (q : Point) : (s.setP d q).delay = s.delay := by cases q <;> rfl
@[simp] theorem setP_draws (d : PReg) (q : Point) : (s.setP d q).draws = s.draws := by cases q <;> rfl

/-! ### acceptance -/

@[simp] theorem accept_e (w : Word) : (s.accept w).e = s.e := rfl
@[simp] theorem accept_pinf (w : Word) : (s.accept w).pinf = s.pinf := rfl
@[simp] theorem accept_key (w : Word) : (s.accept w).key = s.key := rfl
@[simp] theorem accept_block (w : Word) : (s.accept w).block = s.block := rfl
@[simp] theorem accept_kcfgBlk (w : Word) : (s.accept w).kcfgBlk = s.kcfgBlk := rfl
@[simp] theorem accept_kcfgKlen (w : Word) : (s.accept w).kcfgKlen = s.kcfgKlen := rfl
@[simp] theorem accept_curveM (w : Word) : (s.accept w).curveM = s.curveM := rfl
@[simp] theorem accept_cf (w : Word) : (s.accept w).cf = s.cf := rfl
@[simp] theorem accept_ca (w : Word) : (s.accept w).ca = s.ca := rfl
@[simp] theorem accept_cb (w : Word) : (s.accept w).cb = s.cb := rfl
@[simp] theorem accept_cn (w : Word) : (s.accept w).cn = s.cn := rfl
@[simp] theorem accept_rk (w : Word) : (s.accept w).rk = s.rk := rfl
@[simp] theorem accept_schedValid (w : Word) : (s.accept w).schedValid = s.schedValid := rfl
@[simp] theorem accept_schedBlk (w : Word) : (s.accept w).schedBlk = s.schedBlk := rfl
@[simp] theorem accept_schedKlen (w : Word) : (s.accept w).schedKlen = s.schedKlen := rfl
@[simp] theorem accept_schedNr (w : Word) : (s.accept w).schedNr = s.schedNr := rfl
@[simp] theorem accept_hiv (w : Word) : (s.accept w).hiv = s.hiv := rfl
@[simp] theorem accept_hmsg (w : Word) : (s.accept w).hmsg = s.hmsg := rfl
@[simp] theorem accept_hh (w : Word) : (s.accept w).hh = s.hh := rfl
@[simp] theorem accept_hsig (w : Word) : (s.accept w).hsig = s.hsig := rfl
@[simp] theorem accept_hlen (w : Word) : (s.accept w).hlen = s.hlen := rfl
@[simp] theorem accept_hst (w : Word) : (s.accept w).hst = s.hst := rfl
@[simp] theorem accept_busy (w : Word) : (s.accept w).busy = true := rfl
@[simp] theorem accept_done (w : Word) : (s.accept w).done = false := rfl
@[simp] theorem accept_err (w : Word) : (s.accept w).err = .ok := rfl
@[simp] theorem accept_lock (w : Word) : (s.accept w).lock = s.lock := rfl
@[simp] theorem accept_onc (w : Word) : (s.accept w).onc = s.onc := rfl
@[simp] theorem accept_werr (w : Word) : (s.accept w).werr = s.werr := rfl
@[simp] theorem accept_cmd (w : Word) : (s.accept w).cmd = w := rfl
@[simp] theorem accept_irqDoneEn (w : Word) : (s.accept w).irqDoneEn = s.irqDoneEn := rfl
@[simp] theorem accept_irqErrEn (w : Word) : (s.accept w).irqErrEn = s.irqErrEn := rfl
@[simp] theorem accept_irqDone (w : Word) : (s.accept w).irqDone = s.irqDone := rfl
@[simp] theorem accept_irqErr (w : Word) : (s.accept w).irqErr = s.irqErr := rfl
@[simp] theorem accept_port (w : Word) : (s.accept w).port = s.port := rfl
@[simp] theorem accept_answer (w : Word) : (s.accept w).answer = s.answer := rfl
@[simp] theorem accept_delay (w : Word) : (s.accept w).delay = Config.completionDelay s.draws := rfl
@[simp] theorem accept_draws (w : Word) : (s.accept w).draws = s.draws + 1 := rfl

/-! ### a completion -/

@[simp] theorem complete_e (c : ErrCode) : (s.complete c).e = s.e := rfl
@[simp] theorem complete_pinf (c : ErrCode) : (s.complete c).pinf = s.pinf := rfl
@[simp] theorem complete_key (c : ErrCode) : (s.complete c).key = s.key := rfl
@[simp] theorem complete_block (c : ErrCode) : (s.complete c).block = s.block := rfl
@[simp] theorem complete_kcfgBlk (c : ErrCode) : (s.complete c).kcfgBlk = s.kcfgBlk := rfl
@[simp] theorem complete_kcfgKlen (c : ErrCode) : (s.complete c).kcfgKlen = s.kcfgKlen := rfl
@[simp] theorem complete_curveM (c : ErrCode) : (s.complete c).curveM = s.curveM := rfl
@[simp] theorem complete_cf (c : ErrCode) : (s.complete c).cf = s.cf := rfl
@[simp] theorem complete_ca (c : ErrCode) : (s.complete c).ca = s.ca := rfl
@[simp] theorem complete_cb (c : ErrCode) : (s.complete c).cb = s.cb := rfl
@[simp] theorem complete_cn (c : ErrCode) : (s.complete c).cn = s.cn := rfl
@[simp] theorem complete_rk (c : ErrCode) : (s.complete c).rk = s.rk := rfl
@[simp] theorem complete_schedValid (c : ErrCode) : (s.complete c).schedValid = s.schedValid := rfl
@[simp] theorem complete_schedBlk (c : ErrCode) : (s.complete c).schedBlk = s.schedBlk := rfl
@[simp] theorem complete_schedKlen (c : ErrCode) : (s.complete c).schedKlen = s.schedKlen := rfl
@[simp] theorem complete_schedNr (c : ErrCode) : (s.complete c).schedNr = s.schedNr := rfl
@[simp] theorem complete_hiv (c : ErrCode) : (s.complete c).hiv = s.hiv := rfl
@[simp] theorem complete_hmsg (c : ErrCode) : (s.complete c).hmsg = s.hmsg := rfl
@[simp] theorem complete_hh (c : ErrCode) : (s.complete c).hh = s.hh := rfl
@[simp] theorem complete_hsig (c : ErrCode) : (s.complete c).hsig = s.hsig := rfl
@[simp] theorem complete_hlen (c : ErrCode) : (s.complete c).hlen = s.hlen := rfl
@[simp] theorem complete_hst (c : ErrCode) : (s.complete c).hst = s.hst := rfl
@[simp] theorem complete_busy (c : ErrCode) : (s.complete c).busy = false := rfl
@[simp] theorem complete_done (c : ErrCode) : (s.complete c).done = true := rfl
@[simp] theorem complete_err (c : ErrCode) : (s.complete c).err = c := rfl
@[simp] theorem complete_lock (c : ErrCode) : (s.complete c).lock = s.lock := rfl
@[simp] theorem complete_onc (c : ErrCode) : (s.complete c).onc = s.onc := rfl
@[simp] theorem complete_werr (c : ErrCode) : (s.complete c).werr = s.werr := rfl
@[simp] theorem complete_cmd (c : ErrCode) : (s.complete c).cmd = s.cmd := rfl
@[simp] theorem complete_irqDoneEn (c : ErrCode) : (s.complete c).irqDoneEn = s.irqDoneEn := rfl
@[simp] theorem complete_irqErrEn (c : ErrCode) : (s.complete c).irqErrEn = s.irqErrEn := rfl
@[simp] theorem complete_irqDone (c : ErrCode) : (s.complete c).irqDone = true := rfl
@[simp] theorem complete_irqErr (c : ErrCode) : (s.complete c).irqErr = (s.irqErr || c != .ok) := rfl
@[simp] theorem complete_port (c : ErrCode) : (s.complete c).port = s.port := rfl
@[simp] theorem complete_answer (c : ErrCode) : (s.complete c).answer = s.answer := rfl
@[simp] theorem complete_delay (c : ErrCode) : (s.complete c).delay = s.delay := rfl
@[simp] theorem complete_draws (c : ErrCode) : (s.complete c).draws = s.draws := rfl

/-! ### an error completion -/

@[simp] theorem raise_e (c : ErrCode) : (s.raise c).e = s.e := rfl
@[simp] theorem raise_pinf (c : ErrCode) : (s.raise c).pinf = s.pinf := rfl
@[simp] theorem raise_key (c : ErrCode) : (s.raise c).key = s.key := rfl
@[simp] theorem raise_block (c : ErrCode) : (s.raise c).block = s.block := rfl
@[simp] theorem raise_kcfgBlk (c : ErrCode) : (s.raise c).kcfgBlk = s.kcfgBlk := rfl
@[simp] theorem raise_kcfgKlen (c : ErrCode) : (s.raise c).kcfgKlen = s.kcfgKlen := rfl
@[simp] theorem raise_curveM (c : ErrCode) : (s.raise c).curveM = s.curveM := rfl
@[simp] theorem raise_cf (c : ErrCode) : (s.raise c).cf = s.cf := rfl
@[simp] theorem raise_ca (c : ErrCode) : (s.raise c).ca = s.ca := rfl
@[simp] theorem raise_cb (c : ErrCode) : (s.raise c).cb = s.cb := rfl
@[simp] theorem raise_cn (c : ErrCode) : (s.raise c).cn = s.cn := rfl
@[simp] theorem raise_rk (c : ErrCode) : (s.raise c).rk = s.rk := rfl
@[simp] theorem raise_schedValid (c : ErrCode) : (s.raise c).schedValid = s.schedValid := rfl
@[simp] theorem raise_schedBlk (c : ErrCode) : (s.raise c).schedBlk = s.schedBlk := rfl
@[simp] theorem raise_schedKlen (c : ErrCode) : (s.raise c).schedKlen = s.schedKlen := rfl
@[simp] theorem raise_schedNr (c : ErrCode) : (s.raise c).schedNr = s.schedNr := rfl
@[simp] theorem raise_hiv (c : ErrCode) : (s.raise c).hiv = s.hiv := rfl
@[simp] theorem raise_hmsg (c : ErrCode) : (s.raise c).hmsg = s.hmsg := rfl
@[simp] theorem raise_hh (c : ErrCode) : (s.raise c).hh = s.hh := rfl
@[simp] theorem raise_hsig (c : ErrCode) : (s.raise c).hsig = s.hsig := rfl
@[simp] theorem raise_hlen (c : ErrCode) : (s.raise c).hlen = s.hlen := rfl
@[simp] theorem raise_hst (c : ErrCode) : (s.raise c).hst = s.hst := rfl
@[simp] theorem raise_busy (c : ErrCode) : (s.raise c).busy = false := rfl
@[simp] theorem raise_done (c : ErrCode) : (s.raise c).done = true := rfl
@[simp] theorem raise_err (c : ErrCode) : (s.raise c).err = c := rfl
@[simp] theorem raise_lock (c : ErrCode) : (s.raise c).lock = s.lock := rfl
@[simp] theorem raise_onc (c : ErrCode) : (s.raise c).onc = s.onc := rfl
@[simp] theorem raise_werr (c : ErrCode) : (s.raise c).werr = s.werr := rfl
@[simp] theorem raise_cmd (c : ErrCode) : (s.raise c).cmd = s.cmd := rfl
@[simp] theorem raise_irqDoneEn (c : ErrCode) : (s.raise c).irqDoneEn = s.irqDoneEn := rfl
@[simp] theorem raise_irqErrEn (c : ErrCode) : (s.raise c).irqErrEn = s.irqErrEn := rfl
@[simp] theorem raise_irqDone (c : ErrCode) : (s.raise c).irqDone = true := rfl
@[simp] theorem raise_irqErr (c : ErrCode) : (s.raise c).irqErr = (s.irqErr || c != .ok) := rfl
@[simp] theorem raise_port (c : ErrCode) : (s.raise c).port = s.port := rfl
@[simp] theorem raise_answer (c : ErrCode) : (s.raise c).answer = s.answer := rfl
@[simp] theorem raise_delay (c : ErrCode) : (s.raise c).delay = s.delay := rfl
@[simp] theorem raise_draws (c : ErrCode) : (s.raise c).draws = s.draws := rfl

/-! ### serving a host operation -/

@[simp] theorem take_e (rest : List HostOp) : (s.take rest).e = s.e := rfl
@[simp] theorem take_pinf (rest : List HostOp) : (s.take rest).pinf = s.pinf := rfl
@[simp] theorem take_key (rest : List HostOp) : (s.take rest).key = s.key := rfl
@[simp] theorem take_block (rest : List HostOp) : (s.take rest).block = s.block := rfl
@[simp] theorem take_kcfgBlk (rest : List HostOp) : (s.take rest).kcfgBlk = s.kcfgBlk := rfl
@[simp] theorem take_kcfgKlen (rest : List HostOp) : (s.take rest).kcfgKlen = s.kcfgKlen := rfl
@[simp] theorem take_curveM (rest : List HostOp) : (s.take rest).curveM = s.curveM := rfl
@[simp] theorem take_cf (rest : List HostOp) : (s.take rest).cf = s.cf := rfl
@[simp] theorem take_ca (rest : List HostOp) : (s.take rest).ca = s.ca := rfl
@[simp] theorem take_cb (rest : List HostOp) : (s.take rest).cb = s.cb := rfl
@[simp] theorem take_cn (rest : List HostOp) : (s.take rest).cn = s.cn := rfl
@[simp] theorem take_rk (rest : List HostOp) : (s.take rest).rk = s.rk := rfl
@[simp] theorem take_schedValid (rest : List HostOp) : (s.take rest).schedValid = s.schedValid := rfl
@[simp] theorem take_schedBlk (rest : List HostOp) : (s.take rest).schedBlk = s.schedBlk := rfl
@[simp] theorem take_schedKlen (rest : List HostOp) : (s.take rest).schedKlen = s.schedKlen := rfl
@[simp] theorem take_schedNr (rest : List HostOp) : (s.take rest).schedNr = s.schedNr := rfl
@[simp] theorem take_hiv (rest : List HostOp) : (s.take rest).hiv = s.hiv := rfl
@[simp] theorem take_hmsg (rest : List HostOp) : (s.take rest).hmsg = s.hmsg := rfl
@[simp] theorem take_hh (rest : List HostOp) : (s.take rest).hh = s.hh := rfl
@[simp] theorem take_hsig (rest : List HostOp) : (s.take rest).hsig = s.hsig := rfl
@[simp] theorem take_hlen (rest : List HostOp) : (s.take rest).hlen = s.hlen := rfl
@[simp] theorem take_hst (rest : List HostOp) : (s.take rest).hst = s.hst := rfl
@[simp] theorem take_busy (rest : List HostOp) : (s.take rest).busy = s.busy := rfl
@[simp] theorem take_done (rest : List HostOp) : (s.take rest).done = s.done := rfl
@[simp] theorem take_err (rest : List HostOp) : (s.take rest).err = s.err := rfl
@[simp] theorem take_lock (rest : List HostOp) : (s.take rest).lock = s.lock := rfl
@[simp] theorem take_onc (rest : List HostOp) : (s.take rest).onc = s.onc := rfl
@[simp] theorem take_werr (rest : List HostOp) : (s.take rest).werr = s.werr := rfl
@[simp] theorem take_cmd (rest : List HostOp) : (s.take rest).cmd = s.cmd := rfl
@[simp] theorem take_irqDoneEn (rest : List HostOp) : (s.take rest).irqDoneEn = s.irqDoneEn := rfl
@[simp] theorem take_irqErrEn (rest : List HostOp) : (s.take rest).irqErrEn = s.irqErrEn := rfl
@[simp] theorem take_irqDone (rest : List HostOp) : (s.take rest).irqDone = s.irqDone := rfl
@[simp] theorem take_irqErr (rest : List HostOp) : (s.take rest).irqErr = s.irqErr := rfl
@[simp] theorem take_port (rest : List HostOp) : (s.take rest).port = rest := rfl
@[simp] theorem take_answer (rest : List HostOp) : (s.take rest).answer = s.answer := rfl
@[simp] theorem take_delay (rest : List HostOp) : (s.take rest).delay = s.delay - 1 := rfl
@[simp] theorem take_draws (rest : List HostOp) : (s.take rest).draws = s.draws := rfl

/-! ### `BLOCK <- v` -/

@[simp] theorem setBlock_e (v : Elem) : (s.setBlock v).e = s.e := rfl
@[simp] theorem setBlock_pinf (v : Elem) : (s.setBlock v).pinf = s.pinf := rfl
@[simp] theorem setBlock_key (v : Elem) : (s.setBlock v).key = s.key := rfl
@[simp] theorem setBlock_block (v : Elem) : (s.setBlock v).block = v := rfl
@[simp] theorem setBlock_kcfgBlk (v : Elem) : (s.setBlock v).kcfgBlk = s.kcfgBlk := rfl
@[simp] theorem setBlock_kcfgKlen (v : Elem) : (s.setBlock v).kcfgKlen = s.kcfgKlen := rfl
@[simp] theorem setBlock_curveM (v : Elem) : (s.setBlock v).curveM = s.curveM := rfl
@[simp] theorem setBlock_cf (v : Elem) : (s.setBlock v).cf = s.cf := rfl
@[simp] theorem setBlock_ca (v : Elem) : (s.setBlock v).ca = s.ca := rfl
@[simp] theorem setBlock_cb (v : Elem) : (s.setBlock v).cb = s.cb := rfl
@[simp] theorem setBlock_cn (v : Elem) : (s.setBlock v).cn = s.cn := rfl
@[simp] theorem setBlock_rk (v : Elem) : (s.setBlock v).rk = s.rk := rfl
@[simp] theorem setBlock_schedValid (v : Elem) : (s.setBlock v).schedValid = s.schedValid := rfl
@[simp] theorem setBlock_schedBlk (v : Elem) : (s.setBlock v).schedBlk = s.schedBlk := rfl
@[simp] theorem setBlock_schedKlen (v : Elem) : (s.setBlock v).schedKlen = s.schedKlen := rfl
@[simp] theorem setBlock_schedNr (v : Elem) : (s.setBlock v).schedNr = s.schedNr := rfl
@[simp] theorem setBlock_hiv (v : Elem) : (s.setBlock v).hiv = s.hiv := rfl
@[simp] theorem setBlock_hmsg (v : Elem) : (s.setBlock v).hmsg = s.hmsg := rfl
@[simp] theorem setBlock_hh (v : Elem) : (s.setBlock v).hh = s.hh := rfl
@[simp] theorem setBlock_hsig (v : Elem) : (s.setBlock v).hsig = s.hsig := rfl
@[simp] theorem setBlock_hlen (v : Elem) : (s.setBlock v).hlen = s.hlen := rfl
@[simp] theorem setBlock_hst (v : Elem) : (s.setBlock v).hst = s.hst := rfl
@[simp] theorem setBlock_busy (v : Elem) : (s.setBlock v).busy = s.busy := rfl
@[simp] theorem setBlock_done (v : Elem) : (s.setBlock v).done = s.done := rfl
@[simp] theorem setBlock_err (v : Elem) : (s.setBlock v).err = s.err := rfl
@[simp] theorem setBlock_lock (v : Elem) : (s.setBlock v).lock = s.lock := rfl
@[simp] theorem setBlock_onc (v : Elem) : (s.setBlock v).onc = s.onc := rfl
@[simp] theorem setBlock_werr (v : Elem) : (s.setBlock v).werr = s.werr := rfl
@[simp] theorem setBlock_cmd (v : Elem) : (s.setBlock v).cmd = s.cmd := rfl
@[simp] theorem setBlock_irqDoneEn (v : Elem) : (s.setBlock v).irqDoneEn = s.irqDoneEn := rfl
@[simp] theorem setBlock_irqErrEn (v : Elem) : (s.setBlock v).irqErrEn = s.irqErrEn := rfl
@[simp] theorem setBlock_irqDone (v : Elem) : (s.setBlock v).irqDone = s.irqDone := rfl
@[simp] theorem setBlock_irqErr (v : Elem) : (s.setBlock v).irqErr = s.irqErr := rfl
@[simp] theorem setBlock_port (v : Elem) : (s.setBlock v).port = s.port := rfl
@[simp] theorem setBlock_answer (v : Elem) : (s.setBlock v).answer = s.answer := rfl
@[simp] theorem setBlock_delay (v : Elem) : (s.setBlock v).delay = s.delay := rfl
@[simp] theorem setBlock_draws (v : Elem) : (s.setBlock v).draws = s.draws := rfl

/-! ### the hash state -/

@[simp] theorem setHash_e (hh hsig hlen : HashWord) (hst : HashLife) : (s.setHash hh hsig hlen hst).e = s.e := rfl
@[simp] theorem setHash_pinf (hh hsig hlen : HashWord) (hst : HashLife) : (s.setHash hh hsig hlen hst).pinf = s.pinf := rfl
@[simp] theorem setHash_key (hh hsig hlen : HashWord) (hst : HashLife) : (s.setHash hh hsig hlen hst).key = s.key := rfl
@[simp] theorem setHash_block (hh hsig hlen : HashWord) (hst : HashLife) : (s.setHash hh hsig hlen hst).block = s.block := rfl
@[simp] theorem setHash_kcfgBlk (hh hsig hlen : HashWord) (hst : HashLife) : (s.setHash hh hsig hlen hst).kcfgBlk = s.kcfgBlk := rfl
@[simp] theorem setHash_kcfgKlen (hh hsig hlen : HashWord) (hst : HashLife) : (s.setHash hh hsig hlen hst).kcfgKlen = s.kcfgKlen := rfl
@[simp] theorem setHash_curveM (hh hsig hlen : HashWord) (hst : HashLife) : (s.setHash hh hsig hlen hst).curveM = s.curveM := rfl
@[simp] theorem setHash_cf (hh hsig hlen : HashWord) (hst : HashLife) : (s.setHash hh hsig hlen hst).cf = s.cf := rfl
@[simp] theorem setHash_ca (hh hsig hlen : HashWord) (hst : HashLife) : (s.setHash hh hsig hlen hst).ca = s.ca := rfl
@[simp] theorem setHash_cb (hh hsig hlen : HashWord) (hst : HashLife) : (s.setHash hh hsig hlen hst).cb = s.cb := rfl
@[simp] theorem setHash_cn (hh hsig hlen : HashWord) (hst : HashLife) : (s.setHash hh hsig hlen hst).cn = s.cn := rfl
@[simp] theorem setHash_rk (hh hsig hlen : HashWord) (hst : HashLife) : (s.setHash hh hsig hlen hst).rk = s.rk := rfl
@[simp] theorem setHash_schedValid (hh hsig hlen : HashWord) (hst : HashLife) : (s.setHash hh hsig hlen hst).schedValid = s.schedValid := rfl
@[simp] theorem setHash_schedBlk (hh hsig hlen : HashWord) (hst : HashLife) : (s.setHash hh hsig hlen hst).schedBlk = s.schedBlk := rfl
@[simp] theorem setHash_schedKlen (hh hsig hlen : HashWord) (hst : HashLife) : (s.setHash hh hsig hlen hst).schedKlen = s.schedKlen := rfl
@[simp] theorem setHash_schedNr (hh hsig hlen : HashWord) (hst : HashLife) : (s.setHash hh hsig hlen hst).schedNr = s.schedNr := rfl
@[simp] theorem setHash_hiv (hh hsig hlen : HashWord) (hst : HashLife) : (s.setHash hh hsig hlen hst).hiv = s.hiv := rfl
@[simp] theorem setHash_hmsg (hh hsig hlen : HashWord) (hst : HashLife) : (s.setHash hh hsig hlen hst).hmsg = s.hmsg := rfl
@[simp] theorem setHash_hh (hh hsig hlen : HashWord) (hst : HashLife) : (s.setHash hh hsig hlen hst).hh = hh := rfl
@[simp] theorem setHash_hsig (hh hsig hlen : HashWord) (hst : HashLife) : (s.setHash hh hsig hlen hst).hsig = hsig := rfl
@[simp] theorem setHash_hlen (hh hsig hlen : HashWord) (hst : HashLife) : (s.setHash hh hsig hlen hst).hlen = hlen := rfl
@[simp] theorem setHash_hst (hh hsig hlen : HashWord) (hst : HashLife) : (s.setHash hh hsig hlen hst).hst = hst := rfl
@[simp] theorem setHash_busy (hh hsig hlen : HashWord) (hst : HashLife) : (s.setHash hh hsig hlen hst).busy = s.busy := rfl
@[simp] theorem setHash_done (hh hsig hlen : HashWord) (hst : HashLife) : (s.setHash hh hsig hlen hst).done = s.done := rfl
@[simp] theorem setHash_err (hh hsig hlen : HashWord) (hst : HashLife) : (s.setHash hh hsig hlen hst).err = s.err := rfl
@[simp] theorem setHash_lock (hh hsig hlen : HashWord) (hst : HashLife) : (s.setHash hh hsig hlen hst).lock = s.lock := rfl
@[simp] theorem setHash_onc (hh hsig hlen : HashWord) (hst : HashLife) : (s.setHash hh hsig hlen hst).onc = s.onc := rfl
@[simp] theorem setHash_werr (hh hsig hlen : HashWord) (hst : HashLife) : (s.setHash hh hsig hlen hst).werr = s.werr := rfl
@[simp] theorem setHash_cmd (hh hsig hlen : HashWord) (hst : HashLife) : (s.setHash hh hsig hlen hst).cmd = s.cmd := rfl
@[simp] theorem setHash_irqDoneEn (hh hsig hlen : HashWord) (hst : HashLife) : (s.setHash hh hsig hlen hst).irqDoneEn = s.irqDoneEn := rfl
@[simp] theorem setHash_irqErrEn (hh hsig hlen : HashWord) (hst : HashLife) : (s.setHash hh hsig hlen hst).irqErrEn = s.irqErrEn := rfl
@[simp] theorem setHash_irqDone (hh hsig hlen : HashWord) (hst : HashLife) : (s.setHash hh hsig hlen hst).irqDone = s.irqDone := rfl
@[simp] theorem setHash_irqErr (hh hsig hlen : HashWord) (hst : HashLife) : (s.setHash hh hsig hlen hst).irqErr = s.irqErr := rfl
@[simp] theorem setHash_port (hh hsig hlen : HashWord) (hst : HashLife) : (s.setHash hh hsig hlen hst).port = s.port := rfl
@[simp] theorem setHash_answer (hh hsig hlen : HashWord) (hst : HashLife) : (s.setHash hh hsig hlen hst).answer = s.answer := rfl
@[simp] theorem setHash_delay (hh hsig hlen : HashWord) (hst : HashLife) : (s.setHash hh hsig hlen hst).delay = s.delay := rfl
@[simp] theorem setHash_draws (hh hsig hlen : HashWord) (hst : HashLife) : (s.setHash hh hsig hlen hst).draws = s.draws := rfl

/-! ### the writes of KEYEXP -/

@[simp] theorem setSchedule_e (slots : Vector Elem 19) (rounds : Nat) : (s.setSchedule slots rounds).e = s.e := rfl
@[simp] theorem setSchedule_pinf (slots : Vector Elem 19) (rounds : Nat) : (s.setSchedule slots rounds).pinf = s.pinf := rfl
@[simp] theorem setSchedule_key (slots : Vector Elem 19) (rounds : Nat) : (s.setSchedule slots rounds).key = s.key := rfl
@[simp] theorem setSchedule_block (slots : Vector Elem 19) (rounds : Nat) : (s.setSchedule slots rounds).block = s.block := rfl
@[simp] theorem setSchedule_kcfgBlk (slots : Vector Elem 19) (rounds : Nat) : (s.setSchedule slots rounds).kcfgBlk = s.kcfgBlk := rfl
@[simp] theorem setSchedule_kcfgKlen (slots : Vector Elem 19) (rounds : Nat) : (s.setSchedule slots rounds).kcfgKlen = s.kcfgKlen := rfl
@[simp] theorem setSchedule_curveM (slots : Vector Elem 19) (rounds : Nat) : (s.setSchedule slots rounds).curveM = s.curveM := rfl
@[simp] theorem setSchedule_cf (slots : Vector Elem 19) (rounds : Nat) : (s.setSchedule slots rounds).cf = s.cf := rfl
@[simp] theorem setSchedule_ca (slots : Vector Elem 19) (rounds : Nat) : (s.setSchedule slots rounds).ca = s.ca := rfl
@[simp] theorem setSchedule_cb (slots : Vector Elem 19) (rounds : Nat) : (s.setSchedule slots rounds).cb = s.cb := rfl
@[simp] theorem setSchedule_cn (slots : Vector Elem 19) (rounds : Nat) : (s.setSchedule slots rounds).cn = s.cn := rfl
@[simp] theorem setSchedule_rk (slots : Vector Elem 19) (rounds : Nat) : (s.setSchedule slots rounds).rk = slots := rfl
@[simp] theorem setSchedule_schedValid (slots : Vector Elem 19) (rounds : Nat) : (s.setSchedule slots rounds).schedValid = true := rfl
@[simp] theorem setSchedule_schedBlk (slots : Vector Elem 19) (rounds : Nat) : (s.setSchedule slots rounds).schedBlk = s.kcfgBlk := rfl
@[simp] theorem setSchedule_schedKlen (slots : Vector Elem 19) (rounds : Nat) : (s.setSchedule slots rounds).schedKlen = s.kcfgKlen := rfl
@[simp] theorem setSchedule_schedNr (slots : Vector Elem 19) (rounds : Nat) : (s.setSchedule slots rounds).schedNr = BitVec.ofNat 5 rounds := rfl
@[simp] theorem setSchedule_hiv (slots : Vector Elem 19) (rounds : Nat) : (s.setSchedule slots rounds).hiv = s.hiv := rfl
@[simp] theorem setSchedule_hmsg (slots : Vector Elem 19) (rounds : Nat) : (s.setSchedule slots rounds).hmsg = s.hmsg := rfl
@[simp] theorem setSchedule_hh (slots : Vector Elem 19) (rounds : Nat) : (s.setSchedule slots rounds).hh = s.hh := rfl
@[simp] theorem setSchedule_hsig (slots : Vector Elem 19) (rounds : Nat) : (s.setSchedule slots rounds).hsig = s.hsig := rfl
@[simp] theorem setSchedule_hlen (slots : Vector Elem 19) (rounds : Nat) : (s.setSchedule slots rounds).hlen = s.hlen := rfl
@[simp] theorem setSchedule_hst (slots : Vector Elem 19) (rounds : Nat) : (s.setSchedule slots rounds).hst = s.hst := rfl
@[simp] theorem setSchedule_busy (slots : Vector Elem 19) (rounds : Nat) : (s.setSchedule slots rounds).busy = s.busy := rfl
@[simp] theorem setSchedule_done (slots : Vector Elem 19) (rounds : Nat) : (s.setSchedule slots rounds).done = s.done := rfl
@[simp] theorem setSchedule_err (slots : Vector Elem 19) (rounds : Nat) : (s.setSchedule slots rounds).err = s.err := rfl
@[simp] theorem setSchedule_lock (slots : Vector Elem 19) (rounds : Nat) : (s.setSchedule slots rounds).lock = s.lock := rfl
@[simp] theorem setSchedule_onc (slots : Vector Elem 19) (rounds : Nat) : (s.setSchedule slots rounds).onc = s.onc := rfl
@[simp] theorem setSchedule_werr (slots : Vector Elem 19) (rounds : Nat) : (s.setSchedule slots rounds).werr = s.werr := rfl
@[simp] theorem setSchedule_cmd (slots : Vector Elem 19) (rounds : Nat) : (s.setSchedule slots rounds).cmd = s.cmd := rfl
@[simp] theorem setSchedule_irqDoneEn (slots : Vector Elem 19) (rounds : Nat) : (s.setSchedule slots rounds).irqDoneEn = s.irqDoneEn := rfl
@[simp] theorem setSchedule_irqErrEn (slots : Vector Elem 19) (rounds : Nat) : (s.setSchedule slots rounds).irqErrEn = s.irqErrEn := rfl
@[simp] theorem setSchedule_irqDone (slots : Vector Elem 19) (rounds : Nat) : (s.setSchedule slots rounds).irqDone = s.irqDone := rfl
@[simp] theorem setSchedule_irqErr (slots : Vector Elem 19) (rounds : Nat) : (s.setSchedule slots rounds).irqErr = s.irqErr := rfl
@[simp] theorem setSchedule_port (slots : Vector Elem 19) (rounds : Nat) : (s.setSchedule slots rounds).port = s.port := rfl
@[simp] theorem setSchedule_answer (slots : Vector Elem 19) (rounds : Nat) : (s.setSchedule slots rounds).answer = s.answer := rfl
@[simp] theorem setSchedule_delay (slots : Vector Elem 19) (rounds : Nat) : (s.setSchedule slots rounds).delay = s.delay := rfl
@[simp] theorem setSchedule_draws (slots : Vector Elem 19) (rounds : Nat) : (s.setSchedule slots rounds).draws = s.draws := rfl

/-! ### a reset -/

@[simp] theorem resetUnit_e : (s.resetUnit).e = State.reset.e := rfl
@[simp] theorem resetUnit_pinf : (s.resetUnit).pinf = State.reset.pinf := rfl
@[simp] theorem resetUnit_key : (s.resetUnit).key = State.reset.key := rfl
@[simp] theorem resetUnit_block : (s.resetUnit).block = State.reset.block := rfl
@[simp] theorem resetUnit_kcfgBlk : (s.resetUnit).kcfgBlk = State.reset.kcfgBlk := rfl
@[simp] theorem resetUnit_kcfgKlen : (s.resetUnit).kcfgKlen = State.reset.kcfgKlen := rfl
@[simp] theorem resetUnit_curveM : (s.resetUnit).curveM = State.reset.curveM := rfl
@[simp] theorem resetUnit_cf : (s.resetUnit).cf = State.reset.cf := rfl
@[simp] theorem resetUnit_ca : (s.resetUnit).ca = State.reset.ca := rfl
@[simp] theorem resetUnit_cb : (s.resetUnit).cb = State.reset.cb := rfl
@[simp] theorem resetUnit_cn : (s.resetUnit).cn = State.reset.cn := rfl
@[simp] theorem resetUnit_rk : (s.resetUnit).rk = State.reset.rk := rfl
@[simp] theorem resetUnit_schedValid : (s.resetUnit).schedValid = State.reset.schedValid := rfl
@[simp] theorem resetUnit_schedBlk : (s.resetUnit).schedBlk = State.reset.schedBlk := rfl
@[simp] theorem resetUnit_schedKlen : (s.resetUnit).schedKlen = State.reset.schedKlen := rfl
@[simp] theorem resetUnit_schedNr : (s.resetUnit).schedNr = State.reset.schedNr := rfl
@[simp] theorem resetUnit_hiv : (s.resetUnit).hiv = State.reset.hiv := rfl
@[simp] theorem resetUnit_hmsg : (s.resetUnit).hmsg = State.reset.hmsg := rfl
@[simp] theorem resetUnit_hh : (s.resetUnit).hh = State.reset.hh := rfl
@[simp] theorem resetUnit_hsig : (s.resetUnit).hsig = State.reset.hsig := rfl
@[simp] theorem resetUnit_hlen : (s.resetUnit).hlen = State.reset.hlen := rfl
@[simp] theorem resetUnit_hst : (s.resetUnit).hst = State.reset.hst := rfl
@[simp] theorem resetUnit_busy : (s.resetUnit).busy = State.reset.busy := rfl
@[simp] theorem resetUnit_done : (s.resetUnit).done = State.reset.done := rfl
@[simp] theorem resetUnit_err : (s.resetUnit).err = State.reset.err := rfl
@[simp] theorem resetUnit_lock : (s.resetUnit).lock = State.reset.lock := rfl
@[simp] theorem resetUnit_onc : (s.resetUnit).onc = State.reset.onc := rfl
@[simp] theorem resetUnit_werr : (s.resetUnit).werr = State.reset.werr := rfl
@[simp] theorem resetUnit_cmd : (s.resetUnit).cmd = State.reset.cmd := rfl
@[simp] theorem resetUnit_irqDoneEn : (s.resetUnit).irqDoneEn = State.reset.irqDoneEn := rfl
@[simp] theorem resetUnit_irqErrEn : (s.resetUnit).irqErrEn = State.reset.irqErrEn := rfl
@[simp] theorem resetUnit_irqDone : (s.resetUnit).irqDone = State.reset.irqDone := rfl
@[simp] theorem resetUnit_irqErr : (s.resetUnit).irqErr = State.reset.irqErr := rfl
@[simp] theorem resetUnit_port : (s.resetUnit).port = s.port := rfl
@[simp] theorem resetUnit_answer : (s.resetUnit).answer = State.reset.answer := rfl
@[simp] theorem resetUnit_delay : (s.resetUnit).delay = State.reset.delay := rfl
@[simp] theorem resetUnit_draws : (s.resetUnit).draws = s.draws := rfl

end Sys2Proof.Machine
end

