-- ==== Sys2Proof/Laws/Ops.lean ====
section
/-! SUPPORT. What the named operations of Machine/Ops.lean and Machine/Operands.lean can do, said once. -/

namespace Sys2Proof.Machine

variable (s : State)

/-! ### Registers -/

@[simp] theorem getE_setE_same (i : EReg) (v : Elem) : (s.setE i v).getE i = v := by
  simp [State.getE, State.setE]

theorem getE_setE_ne {i j : EReg} (h : j ≠ i) (v : Elem) : (s.setE i v).getE j = s.getE j := by
  have h' : i.val ≠ j.val := fun e => h (Fin.ext e.symm)
  simp [State.getE, State.setE, h']

@[simp] theorem getE_setInf (i : EReg) (k : PReg) (b : Bool) : (s.setInf k b).getE i = s.getE i := rfl

@[simp] theorem getInf_setE (i : EReg) (v : Elem) (k : PReg) : (s.setE i v).getInf k = s.getInf k := rfl

theorem getLsbD_putBit (v : BitVec 8) (k j : Nat) (b : Bool) (hj : j < 8) :
    (putBit v k b).getLsbD j = if j = k then b else v.getLsbD j := by
  unfold putBit
  rcases Nat.lt_trichotomy j k with h | h | h
  · cases b <;> simp [hj, h, Nat.ne_of_lt h]
  · subst h
    cases b <;> simp [hj]
  · have h1 : ¬j < k := by omega
    have h2 : j - k ≠ 0 := by omega
    cases b <;> simp [hj, h1, h2, Nat.ne_of_gt h]

@[simp] theorem getInf_setInf_same (k : PReg) (b : Bool) : (s.setInf k b).getInf k = b := by
  rw [State.getInf, State.setInf, getLsbD_putBit _ _ _ _ k.isLt, if_pos rfl]

theorem getInf_setInf_ne {k j : PReg} (h : j ≠ k) (b : Bool) : (s.setInf k b).getInf j = s.getInf j := by
  have h' : j.val ≠ k.val := fun e => h (Fin.ext e)
  rw [State.getInf, State.setInf, getLsbD_putBit _ _ _ _ j.isLt, if_neg h', State.getInf]

theorem xReg_ne_yReg (k j : PReg) : xReg k ≠ yReg j := by
  simp only [xReg, yReg, ne_eq, Fin.mk.injEq]
  omega

theorem xReg_injective {k j : PReg} (h : xReg k = xReg j) : k = j := by
  simp only [xReg, Fin.mk.injEq] at h
  exact Fin.ext (by omega)

theorem yReg_injective {k j : PReg} (h : yReg k = yReg j) : k = j := by
  simp only [yReg, Fin.mk.injEq] at h
  exact Fin.ext (by omega)

/-! ### Completion -/

/-- A completion with OK is R347's success. -/
theorem complete_ok : s.complete .ok = succeeded s := by
  simp [State.complete, succeeded]

/-- Taking an error is R366's completion. -/
theorem raise_eq_failed {code : ErrCode} (h : code ≠ .ok) : s.raise code = failed s code := by
  simp [State.raise, State.complete, failed, h]

@[simp] theorem finish_ok (t : State) : finish s (.ok t) = .next (succeeded t) := by
  simp [finish, complete_ok]

theorem finish_error {code : ErrCode} (h : code ≠ .ok) : finish s (.error code) = .next (failed s code) := by
  simp [finish, raise_eq_failed s h]

/-- Everything the end of a command can be: the rule's writes with OK, or an error with no write; never a fault or a
refusal. -/
theorem finish_cases (r : Except ErrCode State) :
    (∃ u, r = .ok u ∧ finish s r = .next (succeeded u)) ∨ (∃ code, r = .error code ∧ finish s r = .next (s.raise code)) := by
  cases r with
  | ok u => exact .inl ⟨u, rfl, finish_ok s u⟩
  | error code => exact .inr ⟨code, rfl, rfl⟩

/-! ### Operand checks -/

theorem ushiftRight_eq_zero_iff (m : Nat) (v : Elem) : v >>> m = 0#512 ↔ v.toNat < 2 ^ m := by
  constructor
  · intro h
    have h' := congrArg BitVec.toNat h
    simp only [BitVec.toNat_ushiftRight, Nat.shiftRight_eq_div_pow, BitVec.toNat_ofNat, Nat.zero_mod] at h'
    exact (Nat.div_eq_zero_iff.mp h').resolve_left (by positivity)
  · intro h
    apply BitVec.eq_of_toNat_eq
    simp only [BitVec.toNat_ushiftRight, Nat.shiftRight_eq_div_pow, BitVec.toNat_ofNat, Nat.zero_mod]
    exact Nat.div_eq_of_lt h

/-- R155: canonical is < 2^m. -/
theorem isCanonical_iff (m : Nat) (v : Elem) : isCanonical m v = true ↔ v.toNat < 2 ^ m := by
  simp [isCanonical, ushiftRight_eq_zero_iff]

/-- R150: a GF(2^8) operand is < 0x100. -/
theorem isGf8_iff (v : Elem) : isGf8 v = true ↔ v.toNat < 0x100 := by
  simp only [isGf8, beq_iff_eq, ushiftRight_eq_zero_iff]
  norm_num

/-- The three outcomes of R156's checks. -/
theorem gfChecks_cases (rs : List EReg) :
    (s.lock = false ∧ gfChecks s rs = some .notReady)
      ∨ (s.lock = true ∧ (∀ r ∈ rs, (s.getE r).toNat < 2 ^ s.curveM.toNat) ∧ gfChecks s rs = none)
      ∨ (s.lock = true ∧ (∃ r ∈ rs, 2 ^ s.curveM.toNat ≤ (s.getE r).toNat) ∧ gfChecks s rs = some .invalidOperand) := by
  unfold gfChecks
  cases hl : s.lock with
  | false => simp
  | true =>
    by_cases h : ∀ r ∈ rs, (s.getE r).toNat < 2 ^ s.curveM.toNat
    · refine .inr (.inl ⟨rfl, h, ?_⟩)
      have h' : (rs.all fun r => isCanonical s.degM (s.getE r)) = true := by
        simpa [State.degM, isCanonical_iff] using h
      simp [h']
    · refine .inr (.inr ⟨rfl, by simpa using h, ?_⟩)
      have h' : ¬(rs.all fun r => isCanonical s.degM (s.getE r)) = true := by
        simpa [State.degM, isCanonical_iff] using h
      simp only [Bool.not_true, Bool.false_eq_true, if_false, if_neg h']

/-- The four outcomes of R308's check of one point source. -/
theorem pointCheck_cases (k : PReg) :
    (s.getInf k = true ∧ pointCheck s k = none)
      ∨ (PointNotCanonical s k ∧ pointCheck s k = some .invalidOperand)
      ∨ (s.getInf k = false ∧ (s.getE (xReg k)).toNat < 2 ^ s.curveM.toNat
          ∧ (s.getE (yReg k)).toNat < 2 ^ s.curveM.toNat
          ∧ pointCheck s k =
            if onCurve s (.affine (s.getE (xReg k)) (s.getE (yReg k))) then none else some .pointNotOnCurve) := by
  unfold pointCheck PointNotCanonical
  cases hi : s.getInf k with
  | true => simp
  | false =>
    by_cases hx : (s.getE (xReg k)).toNat < 2 ^ s.curveM.toNat
      <;> by_cases hy : (s.getE (yReg k)).toNat < 2 ^ s.curveM.toNat
      <;> have hx' := (isCanonical_iff s.degM (s.getE (xReg k)))
      <;> have hy' := (isCanonical_iff s.degM (s.getE (yReg k)))
      <;> simp only [State.degM, hx, hy, iff_true, iff_false, Bool.not_eq_true] at hx' hy'
      <;> simp [State.degM, hx, hy, hx', hy']
    cases onCurve s (.affine (s.getE (xReg k)) (s.getE (yReg k))) <;> simp

theorem pointChecks_unlocked (h : s.lock = false) (ks : List PReg) : pointChecks s ks = some .notReady := by
  simp [pointChecks, h]

theorem pointChecks_locked (h : s.lock = true) (ks : List PReg) :
    pointChecks s ks = ks.findSome? (pointCheck s) := by
  simp [pointChecks, h]

end Sys2Proof.Machine
end

