-- ==== Sys2Proof/Laws/PerInstr.lean ====
section
/-! SUPPORT. Families of statements made per instruction, one lemma per constructor of Instr. -/

namespace Sys2Proof.Laws

/-- The encoding stands in the command's row of R122: its word masked by its format's mask is its opcode. -/
def EncodeInRow.Statement (i : Instr) : Prop :=
  i.wf = true → encode i &&& i.format.mask = BitVec.ofNat 32 i.opcode

theorem EncodeInRow.nop : EncodeInRow.Statement .nop := fun _ => by decide

theorem EncodeInRow.gf8mul (rd rs1 rs2 : EReg) : EncodeInRow.Statement (.gf8mul rd rs1 rs2) := by
  intro _; revert rd rs1 rs2; decide +kernel

theorem EncodeInRow.gf8inv (rd rs1 : EReg) : EncodeInRow.Statement (.gf8inv rd rs1) := by
  intro _; revert rd rs1; decide +kernel

theorem EncodeInRow.gfmadd (rd rs1 rs2 : EReg) : EncodeInRow.Statement (.gfmadd rd rs1 rs2) := by
  intro _; revert rd rs1 rs2; decide +kernel

theorem EncodeInRow.gfmmul (rd rs1 rs2 : EReg) : EncodeInRow.Statement (.gfmmul rd rs1 rs2) := by
  intro _; revert rd rs1 rs2; decide +kernel

theorem EncodeInRow.gfmsqr (rd rs1 : EReg) : EncodeInRow.Statement (.gfmsqr rd rs1) := by
  intro _; revert rd rs1; decide +kernel

theorem EncodeInRow.gfminv (rd rs1 : EReg) : EncodeInRow.Statement (.gfminv rd rs1) := by
  intro _; revert rd rs1; decide +kernel

theorem EncodeInRow.gfmred (rd rs1 : EReg) : EncodeInRow.Statement (.gfmred rd rs1) := by
  revert rd rs1; unfold EncodeInRow.Statement; decide +kernel

theorem EncodeInRow.keyexp : EncodeInRow.Statement .keyexp := fun _ => by decide

theorem EncodeInRow.enc : EncodeInRow.Statement .enc := fun _ => by decide

theorem EncodeInRow.dec : EncodeInRow.Statement .dec := fun _ => by decide

theorem EncodeInRow.spnsb : EncodeInRow.Statement .spnsb := fun _ => by decide

theorem EncodeInRow.spnisb : EncodeInRow.Statement .spnisb := fun _ => by decide

theorem EncodeInRow.spnsr : EncodeInRow.Statement .spnsr := fun _ => by decide

theorem EncodeInRow.spnisr : EncodeInRow.Statement .spnisr := fun _ => by decide

theorem EncodeInRow.spnmc : EncodeInRow.Statement .spnmc := fun _ => by decide

theorem EncodeInRow.spnimc : EncodeInRow.Statement .spnimc := fun _ => by decide

theorem EncodeInRow.hinit : EncodeInRow.Statement .hinit := fun _ => by decide

theorem EncodeInRow.hupd : EncodeInRow.Statement .hupd := fun _ => by decide

theorem EncodeInRow.hfin (len : Fin 64) : EncodeInRow.Statement (.hfin len) := by
  intro _; revert len; decide +kernel

theorem EncodeInRow.padd (pd ps1 ps2 : PReg) : EncodeInRow.Statement (.padd pd ps1 ps2) := by
  intro _; revert pd ps1 ps2; decide +kernel

theorem EncodeInRow.pdbl (pd ps1 : PReg) : EncodeInRow.Statement (.pdbl pd ps1) := by
  intro _; revert pd ps1; decide +kernel

theorem EncodeInRow.pneg (pd ps1 : PReg) : EncodeInRow.Statement (.pneg pd ps1) := by
  intro _; revert pd ps1; decide +kernel

theorem EncodeInRow.pchk (ps1 : PReg) : EncodeInRow.Statement (.pchk ps1) := by
  intro _; revert ps1; decide +kernel

theorem EncodeInRow.smul (pd ps1 : PReg) (rs2 : EReg) : EncodeInRow.Statement (.smul pd ps1 rs2) := by
  intro _; revert pd ps1 rs2; decide +kernel

theorem EncodeInRow.cfglock : EncodeInRow.Statement .cfglock := fun _ => by decide

end Sys2Proof.Laws
end

