-- ==== Sys2Proof/Laws/Poly.lean ====
section
/-! SUPPORT. Binary polynomials: the product is additive, and `pmod` is the remainder. -/

namespace Sys2Proof.Machine

theorem clmulUpTo_xor_left (a b f n : Nat) : clmulUpTo (a ^^^ b) f n = clmulUpTo a f n ^^^ clmulUpTo b f n := by
  induction n with
  | zero => simp [clmulUpTo]
  | succ n ih =>
    simp only [clmulUpTo, ih]
    split
    · rw [Nat.shiftLeft_xor_distrib]
      ac_rfl
    · simp

/-- The product is additive in its first factor. -/
theorem clmul_xor_left (a b f : Nat) : clmul (a ^^^ b) f = clmul a f ^^^ clmul b f :=
  clmulUpTo_xor_left a b f _

theorem clmulUpTo_zero_left (f n : Nat) : clmulUpTo 0 f n = 0 := by
  induction n with
  | zero => rfl
  | succ n ih => simp [clmulUpTo, ih]

@[simp] theorem clmul_zero_left (f : Nat) : clmul 0 f = 0 := clmulUpTo_zero_left f _

theorem lt_two_pow_bitlen (v : Nat) : v < 2 ^ bitlen v := by
  unfold bitlen
  split
  · omega
  · exact Nat.lt_log2_self

/-- A product of a value below 2^m with n bits is below 2^(m + n). -/
theorem clmulUpTo_lt {a m : Nat} (h : a < 2 ^ m) (b n : Nat) : clmulUpTo a b n < 2 ^ (m + n) := by
  induction n with
  | zero => simp [clmulUpTo]
  | succ n ih =>
    rw [clmulUpTo]
    apply Nat.xor_lt_two_pow (lt_of_lt_of_le ih (Nat.pow_le_pow_right (by omega) (by omega)))
    split
    · rw [Nat.shiftLeft_eq]
      calc a * 2 ^ n < 2 ^ m * 2 ^ n := Nat.mul_lt_mul_of_pos_right h (by positivity)
        _ ≤ 2 ^ (m + (n + 1)) := by rw [← pow_add]; exact Nat.pow_le_pow_right (by omega) (by omega)
    · positivity

theorem testBit_clmulUpTo_pow (i f n j : Nat) :
    (clmulUpTo (2 ^ i) f n).testBit j = (decide (i ≤ j) && decide (j - i < n) && f.testBit (j - i)) := by
  induction n with
  | zero => simp [clmulUpTo]
  | succ n ih =>
    rw [clmulUpTo, Nat.testBit_xor, ih]
    by_cases hf : f.testBit n = true
    · rw [if_pos hf, Nat.testBit_shiftLeft, Nat.testBit_two_pow]
      by_cases hij : i ≤ j
      · rcases Nat.lt_trichotomy (j - i) n with h | h | h
        · have h1 : ¬(n ≤ j ∧ i = j - n) := by omega
          have h2 : j - i < n + 1 := by omega
          simp only [hij, h, h2, decide_true, Bool.true_and]
          by_cases h3 : n ≤ j
          · have : ¬i = j - n := by omega
            simp [this]
          · simp [h3]
        · have h1 : n ≤ j := by omega
          have h2 : i = j - n := by omega
          have h3 : j - i < n + 1 := by omega
          have h4 : ¬j - i < n := by omega
          simp [hij, h1, h2.symm, h3, h4, ← h ▸ hf]
        · have h1 : ¬j - i < n := by omega
          have h2 : ¬j - i < n + 1 := by omega
          have h3 : ¬i = j - n := by omega
          simp [h1, h2, h3]
      · have h3 : ¬i = j - n := by omega
        simp [hij, h3]
    · rw [if_neg hf]
      by_cases h : j - i = n
      · simp [h, Bool.eq_false_iff.mpr hf]
      · have : (j - i < n + 1) ↔ (j - i < n) := by omega
        simp [this]

/-- Multiplication by x^i is a shift. -/
theorem clmul_two_pow_left (i f : Nat) : clmul (2 ^ i) f = f <<< i := by
  apply Nat.eq_of_testBit_eq
  intro j
  rw [clmul, testBit_clmulUpTo_pow, Nat.testBit_shiftLeft]
  by_cases h : j - i < bitlen f
  · simp [h]
  · have : f.testBit (j - i) = false :=
      Nat.testBit_lt_two_pow (lt_of_lt_of_le (lt_two_pow_bitlen f) (Nat.pow_le_pow_right (by omega) (by omega)))
    simp [h, this]

theorem Congruent.refl (f a : Nat) : Congruent f a a := ⟨0, by simp⟩

theorem Congruent.symm {f a b : Nat} (h : Congruent f a b) : Congruent f b a := by
  obtain ⟨q, hq⟩ := h
  exact ⟨q, by rw [Nat.xor_comm, hq]⟩

theorem Congruent.trans {f a b c : Nat} (h : Congruent f a b) (h' : Congruent f b c) : Congruent f a c := by
  obtain ⟨q, hq⟩ := h
  obtain ⟨r, hr⟩ := h'
  refine ⟨q ^^^ r, ?_⟩
  rw [clmul_xor_left, ← hq, ← hr]
  have : a ^^^ b ^^^ (b ^^^ c) = a ^^^ (b ^^^ b) ^^^ c := by ac_rfl
  rw [this, Nat.xor_self, Nat.xor_zero]

/-- Adding a shifted f stays in the class. -/
theorem congruent_xor_shift (f v i : Nat) : Congruent f v (v ^^^ (f <<< i)) := by
  refine ⟨2 ^ i, ?_⟩
  rw [clmul_two_pow_left, ← Nat.xor_assoc, Nat.xor_self, Nat.zero_xor]

theorem congruent_pmodFrom (f d n v : Nat) : Congruent f v (pmodFrom f d n v) := by
  induction n generalizing v with
  | zero => exact Congruent.refl f v
  | succ i ih =>
    rw [pmodFrom]
    split
    · exact (congruent_xor_shift f v i).trans (ih _)
    · exact ih v

theorem lt_of_testBit_false {v n : Nat} (h : v < 2 ^ (n + 1)) (hb : v.testBit n = false) : v < 2 ^ n := by
  apply Nat.lt_pow_two_of_testBit
  intro i hi
  rcases Nat.eq_or_lt_of_le hi with h' | h'
  · exact h' ▸ hb
  · exact Nat.testBit_lt_two_pow (lt_of_lt_of_le h (Nat.pow_le_pow_right (by omega) h'))

theorem pmodFrom_lt (f n v : Nat) (hf : f ≠ 0) (hv : v < 2 ^ (f.log2 + n)) : pmodFrom f f.log2 n v < 2 ^ f.log2 := by
  induction n generalizing v with
  | zero => simpa [pmodFrom] using hv
  | succ i ih =>
    rw [pmodFrom]
    apply ih
    split
    · rename_i hb
      apply lt_of_testBit_false
      · apply Nat.xor_lt_two_pow (by simpa [Nat.add_assoc] using hv)
        rw [Nat.shiftLeft_eq]
        calc f * 2 ^ i < 2 ^ (f.log2 + 1) * 2 ^ i := by
              apply Nat.mul_lt_mul_of_pos_right Nat.lt_log2_self (by positivity)
          _ = 2 ^ (f.log2 + i + 1) := by rw [← pow_add]; congr 1; omega
      · rw [Nat.testBit_xor, hb, Nat.testBit_shiftLeft]
        simp [Nat.testBit_log2 hf]
    · rename_i hb
      exact lt_of_testBit_false (by simpa [Nat.add_assoc] using hv) (by simpa using hb)

/-- R12: pmod(v, f) has degree below f's, and v ^ pmod(v, f) is divisible by f. -/
theorem pmod_spec (v f : Nat) (hf : f ≠ 0) : pmod v f < 2 ^ f.log2 ∧ Congruent f v (pmod v f) := by
  refine ⟨pmodFrom_lt f _ v hf ?_, congruent_pmodFrom f _ _ v⟩
  apply lt_of_lt_of_le (lt_two_pow_bitlen v) (Nat.pow_le_pow_right (by omega) (by omega))

end Sys2Proof.Machine
end

