-- ==== Sys2Proof/Laws/Spn.lean ====
section
/-! SUPPORT. The SPN state: what stands at each byte and column of the states that the layers build, and their lengths; and
for each layer and combiner one lemma that says what it does in the spec's words. -/

namespace Sys2Proof.Machine

@[simp] theorem length_buildState (nb : Nat) (f : Nat → Nat → Byte) : (buildState nb f).length = 8 * nb := by
  simp [buildState]

/-- Byte 8c + j of a built state is f c j. -/
theorem cell_buildState (nb : Nat) (f : Nat → Nat → Byte) {c j : Nat} (hc : c < nb) (hj : j < 8) :
    cell (buildState nb f) c j = f c j := by
  have h1 : 8 * c + j < 8 * nb := by omega
  have h2 : (8 * c + j) / 8 = c := by omega
  have h3 : (8 * c + j) % 8 = j := by omega
  simp [cell, buildState, List.getD, h1, h2, h3]

/-- Two states of nb columns are equal if their cells are. -/
theorem state_ext {nb : Nat} {s t : Bytes} (hs : s.length = 8 * nb) (ht : t.length = 8 * nb)
    (h : ∀ c < nb, ∀ j < 8, cell s c j = cell t c j) : s = t := by
  apply bytes_ext (by omega)
  intro i hi
  have := h (i / 8) (by omega) (i % 8) (by omega)
  rwa [cell, cell, Nat.div_add_mod] at this

@[simp] theorem length_layerSB (box : SBoxes) (nb : Nat) (s : Bytes) : (layerSB box nb s).length = 8 * nb := by
  simp [layerSB]

@[simp] theorem length_layerISB (box : SBoxes) (nb : Nat) (s : Bytes) : (layerISB box nb s).length = 8 * nb := by
  simp [layerISB]

@[simp] theorem length_layerSR (nb : Nat) (s : Bytes) : (layerSR nb s).length = 8 * nb := by
  simp [layerSR]

@[simp] theorem length_layerISR (nb : Nat) (s : Bytes) : (layerISR nb s).length = 8 * nb := by
  simp [layerISR]

@[simp] theorem length_layerMC (nb : Nat) (s : Bytes) : (layerMC nb s).length = 8 * nb := by
  simp [layerMC, mixColumns]

@[simp] theorem length_layerIMC (nb : Nat) (s : Bytes) : (layerIMC nb s).length = 8 * nb := by
  simp [layerIMC, mixColumns]

@[simp] theorem length_buildColumns (nb : Nat) (f : Nat → BitVec 64) : (buildColumns nb f).length = 8 * nb := by
  simp [buildColumns, List.length_flatMap, Nat.mul_comm]

@[simp] theorem length_modAdd (nb : Nat) (s k : Bytes) : (modAdd nb s k).length = 8 * nb := by
  simp [modAdd]

@[simp] theorem length_modSub (nb : Nat) (s k : Bytes) : (modSub nb s k).length = 8 * nb := by
  simp [modSub]

theorem length_combXor {n : Nat} {s k : Bytes} (hs : s.length = n) (hk : k.length = n) :
    (combXor s k).length = n := by
  simp [combXor, hs, hk]

theorem length_combine {nb : Nat} (op : Combiner) {s k : Bytes} (hs : s.length = 8 * nb) (hk : k.length = 8 * nb) :
    (combine nb op s k).length = 8 * nb := by
  cases op
  · exact length_combXor hs hk
  · exact length_modAdd nb s k

theorem length_uncombine {nb : Nat} (op : Combiner) {s k : Bytes} (hs : s.length = 8 * nb)
    (hk : k.length = 8 * nb) : (uncombine nb op s k).length = 8 * nb := by
  cases op
  · exact length_combXor hs hk
  · exact length_modSub nb s k

@[simp] theorem length_roundG (box : SBoxes) (nb : Nat) (s : Bytes) : (roundG box nb s).length = 8 * nb := by
  simp [roundG]

@[simp] theorem length_keyTransform (box : SBoxes) (nb : Nat) (kt d c : Bytes) :
    (keyTransform box nb kt d c).length = 8 * nb := by
  simp [keyTransform]

@[simp] theorem length_rotateBytes (n : Nat) (bs : Bytes) : (rotateBytes n bs).length = bs.length := by
  simp [rotateBytes]
  omega

/-- Byte t of a rotation by n is the old byte (t + n) mod the length. -/
theorem getD_rotateBytes (n : Nat) (bs : Bytes) (t : Nat) (hn : n ≤ bs.length) (ht : t < bs.length) :
    (rotateBytes n bs).getD t 0#8 = bs.getD ((t + n) % bs.length) 0#8 := by
  simp only [rotateBytes, List.getD]
  by_cases h : t < bs.length - n
  · have h1 : (t + n) % bs.length = t + n := Nat.mod_eq_of_lt (by omega)
    rw [List.getElem?_append_left (by simpa using h), h1, List.getElem?_drop, Nat.add_comm]
  · have h1 : (t + n) % bs.length = t - (bs.length - n) := by
      rw [show t + n = t - (bs.length - n) + bs.length by omega, Nat.add_mod_right]
      exact Nat.mod_eq_of_lt (by omega)
    rw [List.getElem?_append_right (by simpa using h), h1, List.getElem?_take_of_lt (by simp; omega)]
    simp

/-! ### Columns -/

/-- `int(b)` of at most 8 bytes, as a sum. -/
theorem intOf_eq_sum (bs : Bytes) (n : Nat) (h : bs.length ≤ n) :
    intOf bs = ((List.range n).map fun j => (bs.getD j 0#8).toNat * 256 ^ j).sum := by
  induction n generalizing bs with
  | zero => rw [List.length_eq_zero_iff.mp (Nat.le_zero.mp h)]; rfl
  | succ n ih =>
    rw [List.range_succ_eq_map, List.map_cons, List.map_map, List.sum_cons]
    cases bs with
    | nil => simp [intOf, List.getD, Function.comp_def]
    | cons b bs =>
      have hl : bs.length ≤ n := by simpa using h
      rw [intOf, ih bs hl, ← List.sum_map_mul_left]
      simp [List.getD, Function.comp_def, pow_succ, Nat.mul_comm, Nat.mul_assoc]

/-- A column as an integer is the model's column word. -/
theorem columnInt_eq (s : Bytes) (c : Nat) : columnInt s c = (column s c).toNat := by
  have hl : ((s.drop (8 * c)).take 8).length ≤ 8 := by simp
  have hlt : intOf ((s.drop (8 * c)).take 8) < 2 ^ 64 :=
    lt_of_lt_of_le (intOf_lt _) (Nat.pow_le_pow_right (by omega) (by omega))
  rw [column, BitVec.toNat_ofNat, Nat.mod_eq_of_lt hlt, intOf_eq_sum _ 8 hl, columnInt]
  congr 1
  apply List.map_congr_left
  intro j hj
  have hj' : j < 8 := List.mem_range.mp hj
  simp [rowByte, List.getD, hj']

/-- Byte i of columns written back is byte i mod 8 of the word of column i div 8. -/
theorem getD_buildColumns (nb : Nat) (f : Nat → BitVec 64) (i : Nat) (h : i < 8 * nb) :
    (buildColumns nb f).getD i 0#8 = byteAt (f (i / 8)) (i % 8) := by
  induction nb with
  | zero => omega
  | succ nb ih =>
    have e : buildColumns (nb + 1) f = buildColumns nb f ++ bytesOf 8 (f nb) := by
      simp [buildColumns, List.range_succ]
    rw [e]
    by_cases hi : i < 8 * nb
    · rw [List.getD_append _ _ _ _ (by simpa using hi), ih hi]
    · rw [List.getD_append_right _ _ _ _ (by simpa using hi), length_buildColumns,
        getD_bytesOf _ _ _ (by omega), show i / 8 = nb by omega, show i - 8 * nb = i % 8 by omega]

/-- The column word of columns written back. -/
theorem column_buildColumns (nb : Nat) (f : Nat → BitVec 64) {c : Nat} (hc : c < nb) :
    column (buildColumns nb f) c = f c := by
  apply BitVec.eq_of_getLsbD_eq
  intro b hb
  have h8 : b / 8 < 8 := by omega
  have e1 : (8 * c + b / 8) / 8 = c := by omega
  have e2 : (8 * c + b / 8) % 8 = b / 8 := by omega
  have e3 : 8 * (b / 8) + b % 8 = b := by omega
  have e4 : (((buildColumns nb f).drop (8 * c)).take 8).getD (b / 8) 0#8 = byteAt (f c) (b / 8) := by
    rw [show (((buildColumns nb f).drop (8 * c)).take 8).getD (b / 8) 0#8
        = (buildColumns nb f).getD (8 * c + b / 8) 0#8 by
      simp [List.getD, h8], getD_buildColumns _ _ _ (by omega), e1, e2]
  rw [column, BitVec.getLsbD_ofNat, testBit_intOf, e4, getLsbD_byteAt, e3]
  simp [hb, Nat.mod_lt]

theorem columnInt_buildColumns (nb : Nat) (f : Nat → BitVec 64) {c : Nat} (hc : c < nb) :
    columnInt (buildColumns nb f) c = (f c).toNat := by
  rw [columnInt_eq, column_buildColumns nb f hc]

/-! ### What each layer and combiner does -/

theorem layerSB_isSB (nb : Nat) (s : Bytes) : IsSB nb s (layerSB Config.ksb nb s) :=
  fun _ hc _ hj => cell_buildState nb _ hc hj

theorem layerISB_isISB (nb : Nat) (s : Bytes) : IsISB nb s (layerISB Config.ksb nb s) := by
  intro c hc j hj
  rw [show rowByte (layerISB Config.ksb nb s) c j = _ from cell_buildState nb _ hc hj, Equiv.apply_symm_apply]
  rfl

/-- A column moved by sh(j) and back. -/
theorem shifted_column (nb c j : Nat) (hc : c < nb) (hj : j < 8) :
    ((c + j * nb / 8) % nb + (nb - rowShift nb j)) % nb = c := by
  have h : j * nb / 8 < nb := by
    rw [Nat.div_lt_iff_lt_mul (by omega), Nat.mul_comm nb 8]
    exact Nat.mul_lt_mul_of_pos_right hj (by omega)
  rw [rowShift, Nat.mod_add_mod, show c + j * nb / 8 + (nb - j * nb / 8) = c + nb by omega,
    Nat.add_mod_right, Nat.mod_eq_of_lt hc]

theorem layerSR_isSR (nb : Nat) (s : Bytes) : IsSR nb s (layerSR nb s) := by
  intro c hc j hj
  rw [show rowByte (layerSR nb s) _ j = _ from cell_buildState nb _ (Nat.mod_lt _ (by omega)) hj,
    shifted_column nb c j hc hj]
  rfl

theorem layerISR_isISR (nb : Nat) (s : Bytes) : IsISR nb s (layerISR nb s) :=
  fun _ hc _ hj => cell_buildState nb _ hc hj

theorem mixColumns_isMixed (v : List Byte) (nb : Nat) (s : Bytes) : IsMixed v nb s (mixColumns v nb s) := by
  intro c hc r hr
  rw [show rowByte (mixColumns v nb s) c r = _ from cell_buildState nb _ hc hr, mixByte]
  simp only [circulant, cell, rowByte, ← Nat.add_sub_assoc (Nat.le_of_lt hr)]

theorem layerMC_isMC (nb : Nat) (s : Bytes) : IsMC nb s (layerMC nb s) := mixColumns_isMixed mdsv nb s

theorem layerIMC_isIMC (nb : Nat) (s : Bytes) : IsIMC nb s (layerIMC nb s) := mixColumns_isMixed mdsiv nb s

theorem combXor_isXor {nb : Nat} {s k : Bytes} (hs : s.length = 8 * nb) (hk : k.length = 8 * nb) :
    IsXor nb s k (combXor s k) := by
  intro c hc j hj
  have h1 : 8 * c + j < s.length := by omega
  have h2 : 8 * c + j < k.length := by omega
  simp [rowByte, combXor, List.getD, h1, h2]

theorem modAdd_isModAdd (nb : Nat) (s k : Bytes) : IsModAdd nb s k (modAdd nb s k) := by
  intro c hc
  rw [modAdd, columnInt_buildColumns nb _ hc, BitVec.toNat_add, columnInt_eq, columnInt_eq]

theorem modSub_isModSub (nb : Nat) (s k : Bytes) : IsModSub nb s k (modSub nb s k) := by
  intro c hc
  rw [modSub, columnInt_buildColumns nb _ hc, BitVec.toNat_sub, columnInt_eq, columnInt_eq]
  have := (column k c).isLt
  congr 1
  omega

theorem combine_isComb {nb r rounds : Nat} {s k : Bytes} (hs : s.length = 8 * nb) (hk : k.length = 8 * nb) :
    IsComb nb r rounds s k (combine nb (comb r rounds) s k) := by
  unfold IsComb comb
  split
  · exact modAdd_isModAdd nb s k
  · exact combXor_isXor hs hk

theorem uncombine_isInvComb {nb r rounds : Nat} {s k : Bytes} (hs : s.length = 8 * nb) (hk : k.length = 8 * nb) :
    IsInvComb nb r rounds s k (uncombine nb (comb r rounds) s k) := by
  unfold IsInvComb comb
  split
  · exact modSub_isModSub nb s k
  · exact combXor_isXor hs hk

theorem roundG_isRoundG (nb : Nat) (s : Bytes) : IsRoundG nb s (roundG Config.ksb nb s) :=
  ⟨_, _, layerSB_isSB nb s, layerSR_isSR nb _, layerMC_isMC nb _⟩

end Sys2Proof.Machine
end

