-- ==== Sys2Proof/Laws/Step.lean ====
section
/-! SUPPORT. Which agent a step belongs to, and the addresses of the window. -/

namespace Sys2Proof.Machine

variable (s : State)

/-- An address of the window is decoded by its offset alone (R81). -/
theorem windowOffset_base {off : Nat} (h : off < 0x1000) : windowOffset (base + off) = some off := by
  have : base ≤ base + off ∧ base + off < base + 0x1000 := by omega
  simp [windowOffset, this]

theorem windowOffset_eq_some {addr off : Nat} (h : windowOffset addr = some off) :
    addr = base + off ∧ off < 0x1000 := by
  unfold windowOffset at h
  split at h
  · simp only [Option.some.injEq] at h
    omega
  · cases h

theorem hardResetNow_iff : s.hardResetNow = true ↔ s.port.head? = some .hardReset := by
  unfold State.hardResetNow
  split
  · rename_i h
    simp [h]
  · rename_i h
    constructor
    · intro h'
      cases h'
    · intro h'
      cases hp : s.port with
      | nil => simp [hp] at h'
      | cons op rest =>
        rw [hp, List.head?_cons, Option.some.injEq] at h'
        exact absurd (h' ▸ hp) (h rest)

theorem coreMoves_iff : s.coreMoves = true ↔ CoreMoves s := by
  simp only [State.coreMoves, CoreMoves, Bool.and_eq_true, Bool.or_eq_true, beq_iff_eq, List.isEmpty_iff,
    Bool.not_eq_true', ← Bool.not_eq_true, hardResetNow_iff]
  constructor
  · rintro ⟨⟨hb, hr⟩, hd | hp⟩
    · exact ⟨hb, .inr ⟨hd, hr⟩⟩
    · exact ⟨hb, .inl hp⟩
  · rintro ⟨hb, hp | ⟨hd, hr⟩⟩
    · exact ⟨⟨hb, by simp [hp]⟩, .inr hp⟩
    · exact ⟨⟨hb, hr⟩, .inl hd⟩

/-- The core's step is the completion of the command in flight. -/
theorem step_of_coreMoves (h : CoreMoves s) : step s = completeCommand s := by
  rw [step, if_pos ((coreMoves_iff s).mpr h)]

/-- Where no completion comes first, a step serves the host's oldest operation. -/
theorem step_of_hostMoves (h : HostMoves s) (hp : s.port ≠ []) : step s = hostTurn s := by
  rw [step, if_neg]
  rw [coreMoves_iff]
  rintro ⟨hb, hn | ⟨hd, -⟩⟩
  · exact hp hn
  · rcases h with h | h
    · simp [h] at hb
    · omega

/-- A write of a word, served: what `writeReg` does at its place of the window (R82, R88). -/
theorem step_write {off : Nat} {v : Word} {rest : List HostOp} (hm : HostMoves s) (h : off < 0x1000)
    (ha : off % 4 = 0) (hp : s.port = .write (base + off) 4 v :: rest) :
    step s = .next { (s.take rest).writeReg (windowReg off) v with answer := some .written } := by
  rw [step_of_hostMoves _ hm (by simp [hp]), hostTurn, hp]
  simp [windowOffset_base h, serveWrite, accessOk, ha]

/-- A read of a word, served: what `readWindow` gives at its place of the window (R82, R88, R92). -/
theorem step_read {off : Nat} {rest : List HostOp} (hm : HostMoves s) (h : off < 0x1000) (ha : off % 4 = 0)
    (hp : s.port = .read (base + off) 4 :: rest) :
    step s = .next
      { ((s.take rest).readWindow (windowReg off)).2 with
        answer := some (.data ((s.take rest).readWindow (windowReg off)).1) } := by
  rw [step_of_hostMoves _ hm (by simp [hp]), hostTurn, hp]
  simp [windowOffset_base h, serveRead, accessOk, ha]

/-- A hard reset at the head of the port is served next, whatever UKC is doing (R376). -/
theorem step_hardReset {rest : List HostOp} (hp : s.port = .hardReset :: rest) :
    step s = .next (s.take rest).resetUnit := by
  rw [step, if_neg (by simp [State.coreMoves, State.hardResetNow, hp]), hostTurn, hp]
  rfl

/-- Every command ends in the way `finish` ends: with its rule's writes and OK, or with an error and no write. -/
theorem exec_cases (i : Instr) :
    (∃ u, exec i s = .next (succeeded u)) ∨ (∃ code, exec i s = .next (s.raise code)) := by
  have h : ∃ r, exec i s = finish s r := by
    cases i
    case nop => exact ⟨.ok s, rfl⟩
    case hinit => exact ⟨.ok _, rfl⟩
    case cfglock =>
      exact ⟨if s.lock then .ok s else if configValid s then .ok { s with lock := true } else .error .badConfig, rfl⟩
    all_goals exact ⟨_, rfl⟩
  obtain ⟨r, hr⟩ := h
  rw [hr]
  rcases finish_cases s r with ⟨u, -, e⟩ | ⟨code, -, e⟩
  · exact .inl ⟨u, e⟩
  · exact .inr ⟨code, e⟩

end Sys2Proof.Machine
end

