-- ==== Sys2Proof/Tests/Slice0.lean ====
section
/-! SUPPORT. The model's own tests, with results from the spec's vectors (95_test_vectors.md; the id stands at each test), and the
witnesses: for each statement with hypotheses, a state and operands that meet them. -/

namespace Sys2Proof.Tests

-- One theorem at a time: elaborating this file's many evaluations at once takes a thread's stack for each.
set_option Elab.async false

open Sys2Proof.Machine

/-! ### Helpers -/

/-- The step answers a next state with the property p. -/
def after (o : Result) (p : State → Bool) : Bool :=
  match o with
  | .next t => p t
  | _ => false

/-- T5 locked (95_test_vectors.md section 0.1): m = 5, f = x^5 + x^2 + 1, a = b = 1, N = 11. -/
def t5 : State :=
  { State.reset with curveM := 5#10, cf := 0x25#512, ca := 1#512, cb := 1#512, cn := 11#512, lock := true }

/-- RC5 locked: the same over the reducible f = x^5 + 1. -/
def rc5 : State := { t5 with cf := 0x21#512 }

/-- A state with E1 and E2 set. -/
def withE (s : State) (a b : Nat) : State := (s.setE 1 (BitVec.ofNat 512 a)).setE 2 (BitVec.ofNat 512 b)

/-- A state with P0 and P1 set to affine points. -/
def withP (s : State) (x0 y0 x1 y1 : Nat) : State :=
  (s.setP 0 (.affine (BitVec.ofNat 512 x0) (BitVec.ofNat 512 y0))).setP 1
    (.affine (BitVec.ofNat 512 x1) (BitVec.ofNat 512 y1))

/-- T5 with P0 = G and P1 = 2G. -/
def t5g : State := withP t5 0x08 0x17 0x13 0x0F

/-- A state with a block of bytes first, first + 1, .. in BLOCK. -/
def withBlock (first n : Nat) : State :=
  State.reset.setBlock (zextBytes ((List.range n).map fun i => BitVec.ofNat 8 (first + i)))

/-- Bytes from numbers. -/
def bytes (l : List Nat) : Bytes := l.map (BitVec.ofNat 8)

/-! ### WellFormed -/

/-- GFMRED's source must be even (R122). -/
theorem test_wf_gfmred_odd : (Instr.gfmred 0 5).wf = false := by decide

/-- Its word does not decode: 0x00005614 is illegal (section 7.2). -/
theorem test_wf_gfmred_odd_word : decode (encode (.gfmred 6 5)) = .error (.mustBeZero 0x14) := by decide

theorem test_wf_gfmred_even : (Instr.gfmred 6 4).wf = true := by decide

/-! ### Decoding: every constructor, words from section 7.1 and R126 -/

theorem test_decode_nop : decode 0x00000000#32 = .ok .nop := by decide
theorem test_decode_gf8mul : decode 0x00021301#32 = .ok (.gf8mul 3 1 2) := by decide
theorem test_decode_gf8inv : decode 0x00002302#32 = .ok (.gf8inv 3 2) := by decide
theorem test_decode_gfmadd : decode 0x00021310#32 = .ok (.gfmadd 3 1 2) := by decide
theorem test_decode_gfmmul : decode 0x00021311#32 = .ok (.gfmmul 3 1 2) := by decide
theorem test_decode_gfmsqr : decode 0x00001212#32 = .ok (.gfmsqr 2 1) := by decide
theorem test_decode_gfminv : decode 0x00001213#32 = .ok (.gfminv 2 1) := by decide
theorem test_decode_gfmred : decode 0x00004614#32 = .ok (.gfmred 6 4) := by decide
theorem test_decode_keyexp : decode 0x00000020#32 = .ok .keyexp := by decide
theorem test_decode_enc : decode 0x00000021#32 = .ok .enc := by decide
theorem test_decode_dec : decode 0x00000022#32 = .ok .dec := by decide
theorem test_decode_spnsb : decode 0x00000028#32 = .ok .spnsb := by decide
theorem test_decode_spnisb : decode 0x00000029#32 = .ok .spnisb := by decide
theorem test_decode_spnsr : decode 0x0000002A#32 = .ok .spnsr := by decide
theorem test_decode_spnisr : decode 0x0000002B#32 = .ok .spnisr := by decide
theorem test_decode_spnmc : decode 0x0000002C#32 = .ok .spnmc := by decide
theorem test_decode_spnimc : decode 0x0000002D#32 = .ok .spnimc := by decide
theorem test_decode_hinit : decode 0x00000030#32 = .ok .hinit := by decide
theorem test_decode_hupd : decode 0x00000031#32 = .ok .hupd := by decide
theorem test_decode_hfin : decode 0x01200032#32 = .ok (.hfin 18) := by decide
theorem test_decode_padd : decode 0x00032440#32 = .ok (.padd 4 2 3) := by decide
theorem test_decode_pdbl : decode 0x00000141#32 = .ok (.pdbl 1 0) := by decide
theorem test_decode_pneg : decode 0x00002342#32 = .ok (.pneg 3 2) := by decide
theorem test_decode_pchk : decode 0x00002043#32 = .ok (.pchk 2) := by decide
theorem test_decode_smul : decode 0x000F0144#32 = .ok (.smul 1 0 15) := by decide
theorem test_decode_cfglock : decode 0x00000050#32 = .ok .cfglock := by decide

/-- The illegal words of section 7.2, and HFIN 33, which is legal. -/
theorem test_decode_illegal :
    decode 0x00000003#32 = .error (.unassignedOpcode 3) ∧ decode 0x000000FF#32 = .error (.unassignedOpcode 0xFF)
      ∧ decode 0x00000100#32 = .error (.mustBeZero 0) ∧ decode 0x00005614#32 = .error (.mustBeZero 0x14)
      ∧ decode 0x00000840#32 = .error (.mustBeZero 0x40) ∧ decode 0x00100141#32 = .error (.mustBeZero 0x41)
      ∧ decode 0x04000032#32 = .error (.mustBeZero 0x32) ∧ decode 0x02100032#32 = .ok (.hfin 33) := by decide

theorem test_table_word : decodeTableWord 8 0x50 = some .cfglock ∧ decodeTableWord 32 0x00005614 = none := by decide

/-- R130's example, and the spelling of a command. -/
theorem test_encode : encode (.gf8mul 3 1 2) = 0x00021301#32 ∧ encode (.hfin 32) = 0x02000032#32
    ∧ (Instr.gf8mul 3 1 2).asm = "GF8MUL E3, E1, E2" := by decide

/-! ### The life of a command, and the window -/

/-- C-3: NOP from reset, as the first command. -/
theorem test_nop_status : after (step (State.reset.withFetchWord 8 0x00))
    (fun t => t.statusWord == 0x00000002#32 && t.irqStatWord == 1#32 && !t.irq) = true := by decide +kernel

/-- C-4 and section 7.2: an illegal word from reset. -/
theorem test_illegal_status : after (step ({ State.reset with irqDoneEn := true }.withFetchWord 32 0x00000003))
    (fun t => t.statusWord == 0x00000012#32 && t.irqStatWord == 3#32 && t.irq && t.cmd == 3#32) = true := by
  decide +kernel

/-- C-1 and C-13: ID; and a misaligned read, a bus error with data 0. -/
theorem test_read_id : (serveRead State.reset 0x000 4).answer = some (.data 0x554B4331#32)
    ∧ (serveRead State.reset 0x002 4).answer = some (.readError 0#32)
    ∧ (serveRead State.reset 0x000 2).answer = some (.readError 0#32) := by decide +kernel

/-- C-9, C-10: a write of CF under LOCK is ignored and sets WERR; CLRWERR clears it. -/
theorem test_locked_write : (serveWrite t5 0x300 4 0x21#32).cf = 0x25#512
    ∧ (serveWrite t5 0x300 4 0x21#32).statusWord = 0x00002800#32
    ∧ (serveWrite (serveWrite t5 0x300 4 0x21#32) 0x008 4 2#32).statusWord = 0x00000800#32 := by decide +kernel

/-- Little-endian words (R86): bytes 4..7 of E1, from its word 1. -/
theorem test_word_order : byteAt ((serveWrite State.reset 0x444 4 0xA1B2C3D4#32).getE 1) 4 = 0xD4#8
    ∧ byteAt ((serveWrite State.reset 0x444 4 0xA1B2C3D4#32).getE 1) 7 = 0xA1#8 := by decide +kernel

/-! ### Control -/

/-- Section 3.2's start, and C-12: CFGLOCK on T5, and again. -/
theorem test_cfglock : after (exec .cfglock { t5 with lock := false }) (fun t => t.statusWord == 0x00000802#32) = true
    ∧ after (exec .cfglock t5) (fun t => t.statusWord == 0x00000802#32) = true := by decide +kernel

/-- C-7, C-8: m = 0; and CF = 0x24. -/
theorem test_cfglock_bad : after (exec .cfglock State.reset) (fun t => t.statusWord == 0x00000072#32) = true
    ∧ after (exec .cfglock { t5 with lock := false, cf := 0x24#512 })
        (fun t => t.statusWord == 0x00000072#32) = true := by decide +kernel

/-! ### Galois fields -/

/-- GF-1, GF-3. -/
theorem test_gf8mul : after (exec (.gf8mul 3 1 2) (withE State.reset 0x57 0x83)) (fun t => t.getE 3 == 0x31#512) = true
    ∧ after (exec (.gf8mul 1 1 2) (withE State.reset 0x80 0x80)) (fun t => t.getE 1 == 0x13#512) = true := by
  decide +kernel

/-- GF-19: bit 8 set. -/
theorem test_gf8mul_wide : after (exec (.gf8mul 3 1 2) (withE State.reset 0x100 0x01))
    (fun t => t.statusWord == 0x00000052#32 && t.getE 3 == 0#512) = true := by decide +kernel

/-- GF-10, GF-14. -/
theorem test_gf8inv : after (exec (.gf8inv 4 1) (withE State.reset 0x02 0)) (fun t => t.getE 4 == 0x8E#512) = true
    ∧ after (exec (.gf8inv 1 1) (withE State.reset 0xFF 0)) (fun t => t.getE 1 == 0xFD#512) = true := by decide +kernel

/-- GF-18. -/
theorem test_gf8inv_zero : after (exec (.gf8inv 4 1) State.reset) (fun t => t.statusWord == 0x00000052#32) = true := by
  decide +kernel

/-- GM-1, GM-2. -/
theorem test_gfmadd : after (exec (.gfmadd 3 1 2) (withE t5 0x13 0x0A)) (fun t => t.getE 3 == 0x19#512) = true
    ∧ after (exec (.gfmadd 1 1 2) (withE t5 0x1F 0x1F)) (fun t => t.getE 1 == 0#512) = true := by decide +kernel

/-- GM-3, GM-4. -/
theorem test_gfmmul : after (exec (.gfmmul 3 1 2) (withE t5 0x08 0x17)) (fun t => t.getE 3 == 0x09#512) = true
    ∧ after (exec (.gfmmul 3 1 2) (withE t5 0x10 0x02)) (fun t => t.getE 3 == 0x05#512) = true := by decide +kernel

/-- GM-16, GM-19: not canonical; not locked. -/
theorem test_gfmmul_errors :
    after (exec (.gfmmul 3 1 2) (withE t5 0x20 0x0A)) (fun t => t.statusWord == 0x00000852#32) = true
      ∧ after (exec (.gfmmul 3 1 2) State.reset) (fun t => t.statusWord == 0x00000022#32) = true := by decide +kernel

/-- GM-7, GM-10. -/
theorem test_gfmsqr : after (exec (.gfmsqr 2 1) (withE t5 0x1F 0)) (fun t => t.getE 2 == 0x12#512) = true
    ∧ after (exec (.gfmsqr 2 1) (withE t5 0x10 0)) (fun t => t.getE 2 == 0x0D#512) = true := by decide +kernel

/-- GM-11, GM-12, GR-3. -/
theorem test_gfminv : after (exec (.gfminv 2 1) (withE t5 0x08 0)) (fun t => t.getE 2 == 0x16#512) = true
    ∧ after (exec (.gfminv 2 1) (withE t5 0x1F 0)) (fun t => t.getE 2 == 0x1B#512) = true
    ∧ after (exec (.gfminv 2 1) (withE rc5 0x02 0)) (fun t => t.getE 2 == 0x10#512) = true := by decide +kernel

/-- GM-15, GR-4: zero; and a non-unit of a reducible f. -/
theorem test_gfminv_errors : after (exec (.gfminv 2 1) t5) (fun t => t.statusWord == 0x00000852#32) = true
    ∧ after (exec (.gfminv 2 1) (withE rc5 0x03 0)) (fun t => t.statusWord == 0x00000852#32) = true := by decide +kernel

/-- GM-17, and GM-4's product placed in a pair (R163). -/
theorem test_gfmred : after (exec (.gfmred 6 0) (t5.setE 0 0x13#512)) (fun t => t.getE 6 == 0x13#512) = true
    ∧ after (exec (.gfmred 2 2) (withE t5 0 0x20)) (fun t => t.getE 2 == 0x05#512) = true := by decide +kernel

/-! ### The block cipher -/

/-- The S-boxes of the test binding TSB (section 0.1), with their inverses: 171, 205, 183, 57 invert 3, 5, 7, 9. -/
def tsbBox (j : Fin 4) (x : Byte) : Byte := BitVec.ofNat 8 ((2 * j.val + 3) * x.toNat + 16 * j.val + 1)

def tsbInv (j : Fin 4) (y : Byte) : Byte :=
  BitVec.ofNat 8 ([171, 205, 183, 57].getD j.val 0 * (y.toNat + 511 - 16 * j.val))

theorem tsbInv_tsbBox : ∀ j x, tsbInv j (tsbBox j x) = x := by decide +kernel

theorem tsbBox_tsbInv : ∀ j x, tsbBox j (tsbInv j x) = x := by decide +kernel

def tsb : SBoxes := fun j => ⟨tsbBox j, tsbInv j, tsbInv_tsbBox j, tsbBox_tsbInv j⟩

/-- SPN-1, on the layer itself: the command binds the OPEN boxes. -/
theorem test_spnsb_layer : layerSB tsb 2 (bytes (List.range 16)) =
    bytes [0x01, 0x16, 0x2F, 0x4C, 0x0D, 0x2A, 0x4B, 0x70, 0x19, 0x3E, 0x67, 0x94, 0x25, 0x52, 0x83, 0xB8] := by
  decide +kernel

/-- R207's example. -/
theorem test_spnisb_layer : layerISB tsb 2
    (bytes [0x01, 0x16, 0x2F, 0x4C, 0x0D, 0x2A, 0x4B, 0x70, 0x19, 0x3E, 0x67, 0x94, 0x25, 0x52, 0x83, 0xB8]) =
      bytes (List.range 16) := by decide +kernel

/-- SPN-2. -/
theorem test_spnsr : after (exec .spnsr (withBlock 0 64)) (fun t => bytesOf 17 t.block ==
    bytes [0, 1, 2, 3, 0x0C, 0x0D, 0x0E, 0x0F, 8, 9, 0x0A, 0x0B, 4, 5, 6, 7, 0x10]) = true := by decide +kernel

/-- The first column of SPN-4, where each row moves by its own amount. -/
theorem test_spnsr_512 : after (exec .spnsr { withBlock 0 64 with kcfgBlk := 2#2 }) (fun t => bytesOf 8 t.block ==
    bytes [0x00, 0x39, 0x32, 0x2B, 0x24, 0x1D, 0x16, 0x0F]) = true := by decide +kernel

/-- R209's example on SPN-3, first column: ISR of SR's output. -/
theorem test_spnisr : after (exec .spnsr { withBlock 0 32 with kcfgBlk := 1#2 })
    (fun t => after (exec .spnisr t) fun u => bytesOf 32 u.block == bytes (List.range 32)) = true := by decide +kernel

/-- SPN-7. -/
theorem test_spnmc : after (exec .spnmc (withBlock 0 16)) (fun t => bytesOf 16 t.block ==
    bytes [0x38, 0x21, 0x36, 0x27, 0x1C, 0x05, 0x12, 0x03, 0x70, 0x69, 0x7E, 0x6F, 0x54, 0x4D, 0x5A, 0x4B]) = true := by
  decide +kernel

/-- SPN-8. -/
theorem test_spnimc : after (exec .spnimc (State.reset.setBlock 1#512)) (fun t => bytesOf 9 t.block ==
    bytes [0xAD, 0xCA, 0xD7, 0x49, 0x2F, 0xA8, 0x76, 0x95, 0x00]) = true := by decide +kernel

/-- The reserved block size (section 4.1, errors). -/
theorem test_spnsb_reserved : after (exec .spnsb { State.reset with kcfgBlk := 3#2 })
    (fun t => t.statusWord == 0x00000032#32) = true := by decide +kernel

/-- KS-1 under TSB, its first and last keys, as functions: the command binds the OPEN boxes. -/
theorem test_expand : ((expandKey tsb ⟨2, 2, 10⟩ (bytes (List.range 16))).getD 0 [],
    (expandKey tsb ⟨2, 2, 10⟩ (bytes (List.range 16))).getD 10 []) =
      (bytes [0xEC, 0x66, 0x9A, 0x28, 0x48, 0x16, 0xD7, 0xB5, 0x5C, 0xC9, 0xB7, 0x8B, 0x1D, 0x53, 0x2A, 0x49],
        bytes [0xBB, 0x65, 0x3B, 0x3C, 0xC1, 0xB5, 0x3A, 0x91, 0xBB, 0xE5, 0x4D, 0xBC, 0x37, 0x41, 0xC0, 0x97]) := by
  decide +kernel

/-- KS-6. -/
theorem test_keyexp_unsupported : after (exec .keyexp { State.reset with kcfgKlen := 2#2 })
    (fun t => t.statusWord == 0x00000032#32) = true := by decide +kernel

/-- SPN-9 under TSB: ENC's function on KS-1's schedule. -/
theorem test_encrypt :
    let rks := expandKey tsb ⟨2, 2, 10⟩ (bytes (List.range 16))
    spnEnc tsb false 2 10 (fun i => rks.getD i []) (bytes ((List.range 16).map (· + 0x10))) =
      bytes [0x6E, 0xD4, 0x2F, 0xDC, 0xAC, 0x2F, 0x5A, 0xA8, 0x12, 0xB0, 0x73, 0xAE, 0xB9, 0x05, 0x9E, 0x57] := by
  decide +kernel

/-- R213's example under TSB. -/
theorem test_decrypt :
    let rks := expandKey tsb ⟨2, 2, 10⟩ (bytes (List.range 16))
    spnDec tsb false 2 10 (fun i => rks.getD i [])
        (bytes [0x6E, 0xD4, 0x2F, 0xDC, 0xAC, 0x2F, 0x5A, 0xA8, 0x12, 0xB0, 0x73, 0xAE, 0xB9, 0x05, 0x9E, 0x57]) =
      bytes ((List.range 16).map (· + 0x10)) := by decide +kernel

/-- R402: ENC and DEC before any KEYEXP. -/
theorem test_cipher_not_ready : after (exec .enc State.reset) (fun t => t.statusWord == 0x00000022#32) = true
    ∧ after (exec .dec State.reset) (fun t => t.statusWord == 0x00000022#32) = true := by decide +kernel

/-- SPN-C1 and SPN-C2 against the statements' own notions: each column wraps modulo 2^64. -/
theorem test_isModAdd :
    let a := List.replicate 8 0xFF#8 ++ 1#8 :: List.replicate 7 0#8
    let k := 1#8 :: List.replicate 7 0#8 ++ List.replicate 8 0xFF#8
    IsModAdd 2 a k (List.replicate 16 0#8) ∧ IsModSub 2 (List.replicate 16 0#8) k a := by
  unfold IsModAdd IsModSub
  decide +kernel

/-! ### The hash -/

/-- The two parts of the 50-byte message of R287. -/
def msg1 : HashWord := BitVec.ofNat 256 (intOf (bytes
  [0x53, 0x75, 0x70, 0x70, 0x6F, 0x73, 0x65, 0x20, 0x74, 0x68, 0x65, 0x20, 0x6F, 0x72, 0x69, 0x67,
   0x69, 0x6E, 0x61, 0x6C, 0x20, 0x6D, 0x65, 0x73, 0x73, 0x61, 0x67, 0x65, 0x20, 0x68, 0x61, 0x73]))

def msg2 : HashWord := BitVec.ofNat 256 (intOf (bytes
  [0x20, 0x6C, 0x65, 0x6E, 0x67, 0x74, 0x68, 0x20, 0x3D, 0x20, 0x35, 0x30, 0x20, 0x62, 0x79, 0x74, 0x65, 0x73]))

/-- HH after the HUPD of L1-2. -/
def hh1 : HashWord := BitVec.ofNat 256 (intOf (bytes
  [0x9A, 0x5D, 0x2D, 0xED, 0xCE, 0x69, 0xBB, 0xCB, 0xAD, 0xF0, 0x34, 0x26, 0xBD, 0xEF, 0x3B, 0xA9,
   0xD2, 0x1C, 0xB5, 0xE5, 0xC1, 0x96, 0x3D, 0xC6, 0x60, 0x5A, 0x8B, 0x36, 0x4E, 0xEA, 0xCE, 0xF0]))

/-- H-8. -/
theorem test_hinit : after (exec .hinit State.reset)
    (fun t => t.statusWord == 0x00000202#32 && t.hh == 0#256) = true := by decide +kernel

/-- R281's example, the first step of L1-2. -/
theorem test_hupd : after (exec .hupd { State.reset with hst := .active, hmsg := msg1 })
    (fun t => t.hh == hh1 && t.hsig == msg1 && t.hlen == 256#256) = true := by decide +kernel

/-- H-9. -/
theorem test_hupd_idle : after (exec .hupd State.reset) (fun t => t.statusWord == 0x00000022#32) = true := by
  decide +kernel

/-- L1-2, the source's digest: HFIN 18 after the HUPD. Bytes of HMSG past the 18th are not read. -/
theorem test_hfin : after (exec (.hfin 18)
      { State.reset with hst := .active, hh := hh1, hsig := msg1, hlen := 256#256, hmsg := msg2 + (1#256 <<< 144) })
    (fun t => bytesOf 32 t.hh == bytes
      [0x47, 0x1A, 0xBA, 0x57, 0xA6, 0x0A, 0x77, 0x0D, 0x3A, 0x76, 0x13, 0x06, 0x35, 0xC1, 0xFB, 0xEA,
       0x4E, 0xF1, 0x4D, 0xE5, 0x1F, 0x78, 0xB4, 0xAE, 0x57, 0xDD, 0x89, 0x3B, 0x62, 0xF5, 0x52, 0x08]
      && t.hlen == 400#256 && t.hst == .final) = true := by decide +kernel

/-- H-10. -/
theorem test_hfin_too_long : after (exec (.hfin 33) { State.reset with hst := .active })
    (fun t => t.statusWord == 0x00000242#32) = true := by decide +kernel

/-- H-1, H-2. -/
theorem test_gost : gostG 0#32 0#32 = 0x33AF20EA#32 ∧ gostE 0#256 0#64 = 0x12610BE2A6C2FDC9#64 := by decide +kernel

/-- H-1 against the statements' own notion of g: Sub(0) is 0x1D4675E4, one HSBj(0) a nibble (R262, R263). -/
theorem test_isGostG : IsGostG 0#32 0#32 0x33AF20EA#32 := ⟨0x1D4675E4#32, by decide, by decide⟩

/-! ### The curve -/

/-- EC-2, EC-5: G + 2G = 3G; G + (-G) = O, written as 0, 0, 1. -/
theorem test_padd : after (exec (.padd 2 0 1) t5g)
      (fun t => t.getE 4 == 0x0E#512 && t.getE 5 == 0x07#512 && !t.getInf 2) = true
    ∧ after (exec (.padd 2 0 1) (withP t5 0x08 0x17 0x08 0x1F))
      (fun t => t.getE 4 == 0#512 && t.getE 5 == 0#512 && t.getInf 2) = true := by decide +kernel

/-- EC-20, ER-3. -/
theorem test_padd_errors : after (exec (.padd 2 0 1) (withP t5 0x08 0x16 0x08 0x17))
      (fun t => t.statusWord == 0x00000862#32) = true
    ∧ after (exec (.padd 2 0 1) (withP rc5 0x00 0x01 0x0C 0x01)) (fun t => t.statusWord == 0x00000852#32) = true := by
  decide +kernel

/-- EC-1, EC-9. -/
theorem test_pdbl : after (exec (.pdbl 1 0) t5g) (fun t => t.getE 2 == 0x13#512 && t.getE 3 == 0x0F#512) = true
    ∧ after (exec (.pdbl 1 0) (withP t5 0x00 0x01 0 0)) (fun t => t.getE 3 == 0#512 && t.getInf 1) = true := by
  decide +kernel

/-- EC-7, ER-5. -/
theorem test_pneg : after (exec (.pneg 1 0) t5g) (fun t => t.getE 2 == 0x08#512 && t.getE 3 == 0x1F#512) = true
    ∧ after (exec (.pneg 1 0) (withP rc5 0x12 0x01 0 0)) (fun t => t.getE 3 == 0x13#512) = true := by decide +kernel

/-- EC-11, EC-12. -/
theorem test_pchk : after (exec (.pchk 0) t5g) (fun t => t.statusWord == 0x00001802#32) = true
    ∧ after (exec (.pchk 0) (withP t5 0x08 0x16 0 0)) (fun t => t.statusWord == 0x00000802#32) = true := by decide +kernel

/-- EC-15, EC-17. -/
theorem test_smul : after (exec (.smul 1 0 4) (t5g.setE 4 7#512))
      (fun t => t.getE 2 == 0x1E#512 && t.getE 3 == 0x0B#512) = true
    ∧ after (exec (.smul 1 0 4) (t5g.setE 4 10#512))
      (fun t => t.getE 2 == 0x08#512 && t.getE 3 == 0x1F#512) = true := by decide +kernel

/-- EC-18: the scalar N. -/
theorem test_smul_range : after (exec (.smul 1 0 4) (t5g.setE 4 11#512))
    (fun t => t.statusWord == 0x00000852#32) = true := by decide +kernel

/-! ### Witnesses: states -/

/-- One operation at the port, with a command in flight that lets it be served first, or with none. -/
def atPort (busy : Bool) (op : HostOp) : State :=
  { State.reset with busy := busy, delay := busy.toNat, port := [op] }

/-- A write of v to an offset at the port. -/
def writeAt (busy : Bool) (off : Nat) (v : Word) : State := atPort busy (.write (base + off) 4 v)

/-- A read of an offset at the port. -/
def readAt (busy : Bool) (off : Nat) : State := atPort busy (.read (base + off) 4)

/-- The word w in flight, with the host idle. -/
def inFlight (s : State) (w : Word) : State := { s with cmd := w, busy := true }

theorem inFlight_moves (s : State) (w : Word) (h : s.port = []) : CoreMoves (inFlight s w) := ⟨rfl, .inl h⟩

theorem config_t5 : ConfigOk t5 := by constructor <;> decide +kernel

theorem config_t5g : ConfigOk t5g := by constructor <;> decide +kernel

theorem config_rc5 : ConfigOk rc5 := by constructor <;> decide +kernel

/-- P0 = G is on T5. -/
theorem ok_t5g_0 : PointOk t5g 0 := .inr ⟨by decide +kernel, by decide +kernel, 28, by decide +kernel⟩

/-- P1 = 2G is on T5. -/
theorem ok_t5g_1 : PointOk t5g 1 := .inr ⟨by decide +kernel, by decide +kernel, 131, by decide +kernel⟩

/-! ### Witnesses: an operand with no inverse, by evaluation at x = 1 -/

/-- The XOR of the low n bits: the value at x = 1 of a polynomial of degree below n. -/
def atOne (v : Nat) : Nat → Bool
  | 0 => false
  | n + 1 => atOne v n ^^ v.testBit n

theorem atOne_xor (a b n : Nat) : atOne (a ^^^ b) n = (atOne a n ^^ atOne b n) := by
  induction n with
  | zero => rfl
  | succ n ih =>
    simp only [atOne, ih, Nat.testBit_xor]
    cases atOne a n <;> cases atOne b n <;> cases a.testBit n <;> cases b.testBit n <;> rfl

theorem atOne_shift (a i n : Nat) : atOne (a <<< i) (i + n) = atOne a n := by
  induction n with
  | zero =>
    have : ∀ k ≤ i, atOne (a <<< i) k = false := by
      intro k
      induction k with
      | zero => intro _; rfl
      | succ k ih =>
        intro hk
        have h : ¬i ≤ k := by omega
        simp [atOne, ih (by omega), h]
    simpa [atOne] using this i le_rfl
  | succ n ih => rw [← Nat.add_assoc, atOne, ih]; simp [atOne]

/-- Above the degree nothing more is added. -/
theorem atOne_ge (v n k : Nat) (h : v < 2 ^ n) : atOne v (n + k) = atOne v n := by
  induction k with
  | zero => rfl
  | succ k ih =>
    have : v.testBit (n + k) = false :=
      Nat.testBit_lt_two_pow (lt_of_lt_of_le h (Nat.pow_le_pow_right (by omega) (by omega)))
    rw [← Nat.add_assoc, atOne, ih, this, Bool.xor_false]

theorem atOne_zero (k : Nat) : atOne 0 k = false := by
  induction k with
  | zero => rfl
  | succ k ih => simp [atOne, ih]

/-- The value of a product at x = 1: a's value, as often as b has bits. -/
theorem atOne_clmulUpTo (a b m n : Nat) (h : a < 2 ^ m) : atOne (clmulUpTo a b n) (m + n) = (atOne a m && atOne b n) := by
  induction n with
  | zero => rw [clmulUpTo, atOne_zero, atOne, Bool.and_false]
  | succ n ih =>
    rw [clmulUpTo, ← Nat.add_assoc, atOne_xor, atOne_ge _ _ 1 (clmulUpTo_lt h b n), ih, show atOne b (n + 1) =
      (atOne b n ^^ b.testBit n) from rfl]
    by_cases hb : b.testBit n = true
    · have : a <<< n < 2 ^ (n + m) := by
        rw [Nat.shiftLeft_eq, Nat.add_comm, pow_add]
        exact Nat.mul_lt_mul_of_pos_right h (by positivity)
      rw [if_pos hb, hb, show m + n + 1 = n + m + 1 by omega, atOne_ge _ _ 1 this, atOne_shift]
      cases atOne a m <;> cases atOne b n <;> rfl
    · rw [if_neg hb, atOne_zero, Bool.eq_false_iff.mpr hb, Bool.xor_false, Bool.xor_false]

/-- No multiple of RC5's f = x^5 + 1 has an odd number of bits, so nothing with value 1 at x = 1 is congruent to 0. -/
theorem not_multiple (v n : Nat) (hv : v < 2 ^ n) (h : atOne v n = true) (q : Nat) : v ≠ clmul q 0x21 := by
  intro e
  have h1 := atOne_clmulUpTo q 0x21 (bitlen q + n) 6
    (lt_of_lt_of_le (lt_two_pow_bitlen q) (Nat.pow_le_pow_right (by omega) (by omega)))
  have hc : clmulUpTo q 0x21 6 = v := by rw [e]; rfl
  rw [hc, show bitlen q + n + 6 = n + (bitlen q + 6) by omega, atOne_ge v n _ hv, h] at h1
  have : atOne 0x21 6 = false := by decide
  rw [this, Bool.and_false] at h1
  cases h1

/-- An element divisible by x + 1 has no inverse modulo RC5's f. -/
theorem no_inverse (a m : Nat) (ha : a < 2 ^ m) (h : atOne a m = false) (w : Nat) : ¬Inverse 0x21 a w := by
  rintro ⟨q, hq⟩
  have hlt := lt_two_pow_bitlen (clmul a w)
  refine not_multiple (clmul a w ^^^ 1) (bitlen (clmul a w) + (m + bitlen w) + 1) ?_ ?_ q hq
  · apply Nat.xor_lt_two_pow
    · exact lt_of_lt_of_le hlt (Nat.pow_le_pow_right (by omega) (by omega))
    · exact Nat.one_lt_two_pow (by omega)
  · have h1 := atOne_clmulUpTo a w m (bitlen w) ha
    rw [h, Bool.false_and] at h1
    have h2 := clmulUpTo_lt ha w (bitlen w)
    rw [atOne_xor, show bitlen (clmul a w) + (m + bitlen w) + 1 = m + bitlen w + (bitlen (clmul a w) + 1) by omega,
      show atOne (clmul a w) (m + bitlen w + (bitlen (clmul a w) + 1)) = false from
        (atOne_ge _ _ _ h2).trans h1,
      show m + bitlen w + (bitlen (clmul a w) + 1) = 1 + (m + bitlen w + bitlen (clmul a w)) by omega,
      atOne_ge 1 1 _ (by omega)]
    rfl

/-! ### Witnesses: one per statement with hypotheses -/

theorem witness_DecodeEncode : (Instr.gfmred 15 14).wf = true ∧ (Instr.smul 7 7 15).wf = true := by decide

theorem witness_EncodeDecode : decode 0x000FF713#32 = .error (.mustBeZero 0x13)
    ∧ decode 0x0000F713#32 = .ok (.gfminv 7 15) := by decide

theorem witness_DecodeMatchesRows : ((0x44, .PS) : Nat × Format) ∈ opcodeRows
    ∧ 0x000F7744#32 &&& Format.PS.mask = BitVec.ofNat 32 0x44 ∧ 0x000F7F44#32 &&& Format.PS.mask ≠ BitVec.ofNat 32 0x44 := by
  decide

theorem witness_IllegalWord : (∀ row ∈ opcodeRows, 0xF0#32 &&& row.2.mask ≠ BitVec.ofNat 32 row.1)
    ∧ (∀ row ∈ opcodeRows, 0x80000000#32 &&& row.2.mask ≠ BitVec.ofNat 32 row.1)
    ∧ (writeAt false 0x010 0xF0#32).busy = false
    ∧ (writeAt false 0x010 0xF0#32).port = .write (base + 0x010) 4 0xF0#32 :: []
    ∧ CoreMoves (inFlight State.reset 0xF0#32) ∧ (inFlight State.reset 0xF0#32).cmd = 0xF0#32 :=
  ⟨by decide, by decide, rfl, rfl, inFlight_moves _ _ rfl, rfl⟩

theorem witness_StepRunsCommand : CoreMoves (inFlight t5 0x50#32) ∧ decode (inFlight t5 0x50#32).cmd = .ok .cfglock
    ∧ CoreMoves { readAt true 0x00C with delay := 0 } ∧ (Instr.gfmred 6 4).wf = true :=
  ⟨inFlight_moves _ _ rfl, by decide, ⟨rfl, .inr ⟨rfl, by decide⟩⟩, by decide⟩

theorem witness_CommandAcceptance : (writeAt false 0x010 0x50#32).port = .write (base + 0x010) 4 0x50#32 :: []
    ∧ (writeAt false 0x010 0x50#32).busy = false ∧ (writeAt true 0x010 0x50#32).port = .write (base + 0x010) 4 0x50#32 :: []
    ∧ (writeAt true 0x010 0x50#32).busy = true ∧ 0 < (writeAt true 0x010 0x50#32).delay
    ∧ (atPort true .wait).busy = true ∧ after (step (atPort true .wait)) (fun t => t.busy) = true :=
  ⟨rfl, rfl, rfl, rfl, by decide, rfl, by decide +kernel⟩

theorem witness_CompletionFlags : CoreMoves (inFlight State.reset 0x21#32)
    ∧ CoreMoves { readAt true 0x00C with delay := 0 } :=
  ⟨inFlight_moves _ _ rfl, rfl, .inr ⟨rfl, by decide⟩⟩

theorem witness_ErrorIsPrecise : CoreMoves (inFlight State.reset 3#32)
    ∧ after (step (inFlight State.reset 3#32)) (fun t => t.err != .ok) = true :=
  ⟨inFlight_moves _ _ rfl, by decide +kernel⟩

/-- Commands that change what they may change: BLOCK, the hash state, LOCK, ONC, PINF and E. -/
theorem witness_WritersOfState :
    after (exec .spnmc (withBlock 0 16)) (fun t => t.block != (withBlock 0 16).block) = true
      ∧ after (exec .keyexp State.reset) (fun t => t.schedValid) = true
      ∧ after (exec .hinit State.reset) (fun t => t.hst != State.reset.hst) = true
      ∧ after (exec .cfglock { t5 with lock := false }) (fun t => t.lock) = true
      ∧ after (exec (.pchk 0) t5g) (fun t => t.onc) = true
      ∧ after (exec (.padd 7 0 1) (withP t5 0x08 0x17 0x08 0x1F)) (fun t => t.pinf != 0#8) = true
      ∧ after (exec (.gfmred 15 0) (t5.setE 0 1#512)) (fun t => t.e != (t5.setE 0 1#512).e) = true := by
  refine ⟨?_, ?_, ?_, ?_, ?_, ?_, ?_⟩
  · decide +kernel
  · rfl
  all_goals decide +kernel

/-- The first and the last address of the window. -/
theorem inWindow_ends : (HostOp.read base 4).inWindow ∧ (HostOp.write (base + 0xFFF) 1 0#32).inWindow := by
  constructor <;> simp only [HostOp.inWindow] <;> omega

theorem witness_CompletesInTime : (inFlight { State.reset with delay := 5, port := [.read base 4, .wait] } 0#32).busy = true
    ∧ PortInWindow (inFlight { State.reset with delay := 5, port := [.read base 4, .wait] } 0#32) := by
  refine ⟨rfl, ?_⟩
  intro op h
  rcases List.mem_cons.mp h with h | h
  · exact h ▸ inWindow_ends.1
  · rcases List.mem_cons.mp h with h | h
    · exact h ▸ trivial
    · cases h

theorem legal_t5 : LegalState t5 where
  config := fun _ => config_t5
  schedule := by
    have h : ∀ i, t5.getRk i = 0#512 := by
      intro i
      show (Vector.replicate 19 0#512)[i]?.getD 0#512 = 0#512
      by_cases hi : i < 19 <;> simp [hi]
    rw [ScheduleOk, if_neg (by decide)]
    exact ⟨rfl, rfl, rfl, h⟩
  in_flight := fun h => by cases h
  error_done := fun h => absurd rfl h
  idle_hash := fun _ => ⟨rfl, rfl, rfl⟩
  onc_locked := fun h => by cases h

theorem witness_LegalKept : LegalState t5 ∧ step t5 = .next t5 := ⟨legal_t5, rfl⟩

/-- LOCK set by CFGLOCK; cleared by CTRL.SRST; kept by a read; and the first and last offsets of the configuration. -/
theorem witness_LockRules :
    (after (step (inFlight { t5 with lock := false } 0x50#32)) (fun t => t.lock) = true)
      ∧ step { writeAt false 0x008 1#32 with lock := true } = .next { State.reset with answer := some .written }
      ∧ (step t5 = .next t5 ∧ t5.lock = true)
      ∧ CurveConfigInput 0x020 ∧ CurveConfigInput 0x300 ∧ CurveConfigInput 0x3FC
      ∧ (∀ off ∈ [0x020, 0x300, 0x3FC], ∀ busy,
          { writeAt busy off 1#32 with lock := true }.lock = true
            ∧ HostMoves { writeAt busy off 1#32 with lock := true } ∧ off % 4 = 0
            ∧ { writeAt busy off 1#32 with lock := true }.port = .write (base + off) 4 1#32 :: []) := by
  refine ⟨by decide +kernel, ?_, ⟨rfl, rfl⟩, ?_, ?_, ?_, ?_⟩
  · rw [step_of_hostMoves _ (.inl rfl) (by simp [writeAt, atPort])]
    simp only [hostTurn, writeAt, atPort, windowOffset_base (show 0x008 < 0x1000 by omega)]
    rfl
  · exact .inl rfl
  · exact .inr ⟨by omega, by omega⟩
  · exact .inr ⟨by omega, by omega⟩
  · intro off h busy
    refine ⟨rfl, ?_, ?_, rfl⟩
    · cases busy
      · exact .inl rfl
      · exact .inr Nat.one_pos
    · simp only [List.mem_cons, List.not_mem_nil, or_false] at h
      omega

/-- The classes of R93 exclude each other, and cover the window's words. -/
theorem write_classes (off : Nat) (h : off < 0x1000) (ha : off % 4 = 0) :
    (off = 0x008 ∨ off = 0x014 ∨ off = 0x018 ∨ CommandInput off ∨ ReadOnlyOrReserved off)
      ∧ ¬(CommandInput off ∧ ReadOnlyOrReserved off)
      ∧ (off = 0x008 ∨ off = 0x014 ∨ off = 0x018 → ¬CommandInput off ∧ ¬ReadOnlyOrReserved off) := by
  unfold CommandInput ReadOnlyOrReserved
  omega

/-- The first and last offsets of every range of R93's and R88's classes. -/
theorem write_class_ends :
    (∀ off ∈ [0x010, 0x01C, 0x020, 0x024, 0x100, 0x1BC, 0x300, 0x7FC], CommandInput off)
      ∧ ∀ off ∈ [0x000, 0x004, 0x00C, 0x028, 0x0FC, 0x1C0, 0x2FC, 0x800, 0xFFC], ReadOnlyOrReserved off := by
  simp only [CommandInput, ReadOnlyOrReserved]
  decide

theorem witness_BusyWrites : ∀ off ∈ [0x008, 0x014, 0x018, 0x010, 0x01C, 0x020, 0x024, 0x100, 0x1BC, 0x300, 0x7FC,
      0x000, 0x004, 0x00C, 0x028, 0x0FC, 0x1C0, 0x2FC, 0x800, 0xFFC], ∀ v,
    (writeAt true off v).busy = true ∧ 0 < (writeAt true off v).delay ∧ off % 4 = 0
      ∧ (writeAt true off v).port = .write (base + off) 4 v :: [] := by
  intro off h v
  refine ⟨rfl, Nat.one_pos, ?_, rfl⟩
  simp only [List.mem_cons, List.not_mem_nil, or_false] at h
  omega

theorem witness_BusyReads :
    (∀ off ∈ [0x000, 0x018, 0x02C, 0x0FC, 0x220, 0x2FC, 0xCC0, 0xFFC], ExactOffset off)
      ∧ (∀ off ∈ [0x01C, 0x028, 0x100, 0x21C, 0x300, 0xCBC], ¬ExactOffset off)
      ∧ ∀ off ∈ [0x000, 0x018, 0x02C, 0x0FC, 0x220, 0x2FC, 0xCC0, 0xFFC, 0x01C, 0x028, 0x100, 0x21C, 0x300, 0xCBC],
        (readAt true off).busy = true ∧ 0 < (readAt true off).delay ∧ off % 4 = 0 ∧ off < 0x1000
          ∧ (readAt true off).port = .read (base + off) 4 :: [] := by
  refine ⟨?_, ?_, ?_⟩
  · simp only [ExactOffset]
    decide
  · simp only [ExactOffset]
    decide
  · intro off h
    refine ⟨rfl, Nat.one_pos, ?_, ?_, rfl⟩ <;> simp only [List.mem_cons, List.not_mem_nil, or_false] at h <;> omega

/-- A byte read, a misaligned word read, and a 64-bit write, at the ends of the window; and aligned words. -/
theorem witness_BadAccess : ∀ busy, ∀ off ∈ [0x000, 0x002, 0xFFC, 0xFFF], ∀ size ∈ [1, 2, 4, 8],
    HostMoves (atPort busy (.read (base + off) size)) ∧ off < 0x1000
      ∧ (atPort busy (.read (base + off) size)).port = .read (base + off) size :: []
      ∧ HostMoves (atPort busy (.write (base + off) size 0#32))
      ∧ (atPort busy (.write (base + off) size 0#32)).port = .write (base + off) size 0#32 :: [] := by
  intro busy off h size _
  have hm : ∀ op, HostMoves (atPort busy op) := by
    intro op
    cases busy
    · exact .inl rfl
    · exact .inr Nat.one_pos
  refine ⟨hm _, ?_, rfl, hm _, rfl⟩
  simp only [List.mem_cons, List.not_mem_nil, or_false] at h
  omega

theorem witness_IdleReads : ∀ off ∈ [0x000, 0x028, 0x02C, 0x400, 0xFFC],
    (readAt false off).busy = false ∧ off % 4 = 0 ∧ off < 0x1000
      ∧ (readAt false off).port = .read (base + off) 4 :: [] := by
  intro off h
  refine ⟨rfl, ?_, ?_, rfl⟩ <;> simp only [List.mem_cons, List.not_mem_nil, or_false] at h <;> omega

/-- The first and last words of the ranges of wide registers, unlocked. -/
theorem witness_WideWrites : ∀ off ∈ [0x100, 0x1BC, 0x300, 0x3FC, 0x400, 0x7FC], ∀ v,
    (writeAt false off v).busy = false ∧ off % 4 = 0 ∧ (writeAt false off v).lock = false
      ∧ ((0x100 ≤ off ∧ off < 0x1C0) ∨ (0x300 ≤ off ∧ off < 0x400) ∨ (0x400 ≤ off ∧ off < 0x800))
      ∧ (writeAt false off v).port = .write (base + off) 4 v :: [] := by
  intro off h v
  refine ⟨rfl, ?_, rfl, ?_, rfl⟩ <;> simp only [List.mem_cons, List.not_mem_nil, or_false] at h <;> omega

theorem witness_ControlWrites : ∀ off ∈ [0x01C, 0x020, 0x024, 0x014, 0x018, 0x000, 0x028, 0x0FC, 0x1C0, 0x2FC, 0x800,
      0xFFC], ∀ v,
    (writeAt false off v).busy = false ∧ off % 4 = 0 ∧ (writeAt false off v).lock = false
      ∧ (writeAt false off v).port = .write (base + off) 4 v :: [] := by
  intro off h v
  refine ⟨rfl, ?_, rfl, rfl⟩
  simp only [List.mem_cons, List.not_mem_nil, or_false] at h
  omega

/-- CTRL written with SRST, with both bits, with CLRWERR alone, and with neither. -/
theorem witness_CtrlWrite : ∀ busy, ∀ v : Word, HostMoves (writeAt busy 0x008 v)
    ∧ (writeAt busy 0x008 v).port = .write (base + 0x008) 4 v :: []
    ∧ (1#32).getLsbD 0 = true ∧ (3#32).getLsbD 0 = true ∧ (2#32).getLsbD 0 = false ∧ (2#32).getLsbD 1 = true
    ∧ (0xFFFFFFFC#32).getLsbD 0 = false ∧ (0xFFFFFFFC#32).getLsbD 1 = false := by
  intro busy v
  refine ⟨?_, rfl, by decide, by decide, by decide, by decide, by decide, by decide⟩
  cases busy
  · exact .inl rfl
  · exact .inr Nat.one_pos

theorem witness_SoftReset :
    let s : State := { writeAt true 0x008 1#32 with
      port := [.write (base + 0x008) 4 1#32, .read (base + 0x00C) 4] }
    HostMoves s ∧ (1#32).getLsbD 0 = true
      ∧ s.port = .write (base + 0x008) 4 1#32 :: [.read (base + 0x00C) 4]
      ∧ ∃ t, step { s with port := .hardReset :: [.read (base + 0x00C) 4] } = .next t :=
  ⟨.inr Nat.one_pos, by decide, rfl, _, rfl⟩

theorem witness_HardReset : ({ inFlight t5g 0#32 with port := [.hardReset, .wait] }).port = .hardReset :: [.wait] := rfl

theorem witness_InterruptAtCompletion : CoreMoves (inFlight { State.reset with irqErrEn := true } 3#32) :=
  inFlight_moves _ _ rfl

theorem witness_NeverStops :
    PortInWindow { State.reset with port := [.write (base + 0xFFF) 1 0#32, .hardReset, .wait, .read base 4] } := by
  intro op h
  simp only [List.mem_cons, List.not_mem_nil, or_false] at h
  rcases h with h | h | h | h
  · exact h ▸ inWindow_ends.2
  · exact h ▸ trivial
  · exact h ▸ trivial
  · exact h ▸ inWindow_ends.1

theorem witness_WaitLoop : HostMoves (atPort true .wait) ∧ (atPort true .wait).port = .wait :: []
    ∧ HostMoves (atPort false .wait) ∧ (atPort false .wait).port = .wait :: [] :=
  ⟨.inr Nat.one_pos, rfl, .inl rfl, rfl⟩

theorem witness_CfglockValidates : t5.lock = true ∧ { t5 with lock := false }.lock = false
    ∧ ConfigOk { t5 with lock := false } ∧ State.reset.lock = false ∧ ¬ConfigOk State.reset := by
  refine ⟨rfl, rfl, ?_, rfl, fun h => ?_⟩
  · constructor <;> decide +kernel
  · exact absurd h.degree_ge (by decide)

/-- The least and greatest GF(2^8) operands, and the least that is not one. -/
theorem witness_Gf8 : ((withE State.reset 0 0xFF).getE 1).toNat < 0x100 ∧ ((withE State.reset 0 0xFF).getE 2).toNat < 0x100
    ∧ 0x100 ≤ ((withE State.reset 0x100 0).getE 1).toNat ∧ 0x100 ≤ ((withE State.reset 0 0x100).getE 2).toNat := by
  decide +kernel

theorem witness_Gf8Invert : 0 < ((withE State.reset 1 0).getE 1).toNat ∧ ((withE State.reset 0xFF 0).getE 1).toNat < 0x100
    ∧ ((withE State.reset 0 0).getE 1).toNat = 0 ∧ 0x100 ≤ ((withE State.reset 0x100 0).getE 1).toNat := by decide +kernel

theorem witness_Gf8Field : 1#8 ≠ 0#8 ∧ 0xFF#8 ≠ 0#8 := by decide

/-- The least and greatest canonical operands for m = 5; an even source. -/
theorem witness_GfmArithmetic : (withE t5 0 0x1F).lock = true ∧ ConfigOk (withE t5 0 0x1F)
    ∧ ((withE t5 0 0x1F).getE 1).toNat < 2 ^ (withE t5 0 0x1F).curveM.toNat
    ∧ ((withE t5 0 0x1F).getE 2).toNat < 2 ^ (withE t5 0 0x1F).curveM.toNat ∧ evenReg 14 = true :=
  ⟨rfl, by constructor <;> decide +kernel, by decide +kernel, by decide +kernel, by decide⟩

/-- 0x08 has the inverse 0x16 on T5 (GM-11); 0x03 = x + 1 has none on RC5 (GR-4). -/
theorem witness_GfmInvert : (withE t5 0x08 0).lock = true ∧ ConfigOk (withE t5 0x08 0)
    ∧ ((withE t5 0x08 0).getE 1).toNat < 2 ^ (withE t5 0x08 0).curveM.toNat
    ∧ 0x16 < 2 ^ (withE t5 0x08 0).curveM.toNat
    ∧ Inverse (withE t5 0x08 0).cf.toNat ((withE t5 0x08 0).getE 1).toNat 0x16
    ∧ (withE rc5 3 0).lock = true ∧ ConfigOk (withE rc5 3 0)
    ∧ ((withE rc5 3 0).getE 1).toNat < 2 ^ (withE rc5 3 0).curveM.toNat
    ∧ ∀ r < 2 ^ (withE rc5 3 0).curveM.toNat, ¬Inverse (withE rc5 3 0).cf.toNat ((withE rc5 3 0).getE 1).toNat r :=
  ⟨rfl, by constructor <;> decide +kernel, by decide +kernel, by decide +kernel, ⟨5, by decide +kernel⟩, rfl,
    by constructor <;> decide +kernel, by decide +kernel, fun r _ => by
      rw [show (withE rc5 3 0).cf.toNat = 0x21 by decide +kernel,
        show ((withE rc5 3 0).getE 1).toNat = 3 by decide +kernel]
      exact no_inverse 3 2 (by decide) (by decide) r⟩

/-- Not locked; locked with the least operand that is not canonical, as the first and as the second source. -/
theorem witness_GfmChecks : State.reset.lock = false ∧ (withE t5 0x20 0).lock = true ∧ evenReg 0 = true
    ∧ 2 ^ (withE t5 0x20 0).curveM.toNat ≤ ((withE t5 0x20 0).getE 1).toNat
    ∧ 2 ^ (withE t5 0 0x20).curveM.toNat ≤ ((withE t5 0 0x20).getE 2).toNat := by decide +kernel

theorem witness_SpnBlock : ∀ b ∈ [0#2, 1#2, 2#2], { State.reset with kcfgBlk := b }.kcfgBlk ≠ 3#2 := by decide

theorem witness_SpnReserved : { State.reset with kcfgBlk := 3#2 }.kcfgBlk = 3#2 := rfl

theorem witness_Cipher : 8 ∈ [2, 4, 8] ∧ (List.replicate 64 0#8).length = 8 * 8 ∧ State.reset.schedValid = false ∧ ∀ b ∈ [0#2, 1#2, 2#2],
    { State.reset with schedValid := true, schedBlk := b }.schedValid = true
      ∧ { State.reset with schedValid := true, schedBlk := b }.schedBlk ≠ 3#2 := by decide

/-- Every row of R240, and a pair that is none. -/
theorem witness_Keyexp : (∀ row ∈ keyRows,
      (({ State.reset with kcfgBlk := row.1, kcfgKlen := row.2.1 }.kcfgBlk),
        ({ State.reset with kcfgBlk := row.1, kcfgKlen := row.2.1 }.kcfgKlen), row.2.2) ∈ keyRows)
    ∧ ∀ row, ((1#2 : BitVec 2), (0#2 : BitVec 2), row) ∉ keyRows := by
  refine ⟨by decide, ?_⟩
  intro row h
  simp [keyRows] at h

/-- Two states with KCFG = 0 and keys that differ from byte 16 on (KS-7). -/
theorem witness_KeyexpDeterministic :
    (State.reset.kcfgBlk, State.reset.kcfgKlen, (⟨2, 2, 10⟩ : KeyRow)) ∈ keyRows
      ∧ { State.reset with key := 1#512 <<< 128 }.kcfgBlk = State.reset.kcfgBlk
      ∧ { State.reset with key := 1#512 <<< 128 }.kcfgKlen = State.reset.kcfgKlen
      ∧ (∀ i < 8 * 2, byteAt ({ State.reset with key := 1#512 <<< 128 }.key) i = byteAt State.reset.key i)
      ∧ { State.reset with key := 1#512 <<< 128 }.key ≠ State.reset.key := by decide +kernel

/-- HFIN's byte counts 1, 32, 33 and 63, in the ACTIVE state; and a state that is not ACTIVE. -/
theorem witness_Hash : { State.reset with hst := .active }.hst = .active ∧ State.reset.hst ≠ .active
    ∧ 0 < (1 : Fin 64).val ∧ (32 : Fin 64).val ≤ 32 ∧ 32 < (33 : Fin 64).val ∧ 32 < (63 : Fin 64).val
    ∧ (∀ j < 32, byteAt 0xFF#256 j = if j < (1 : Fin 64).val then byteAt 0xFFFF#256 j else 0#8)
    ∧ { State.reset with hst := .final }.hst = .final ∧ Instr.hupd ≠ .hinit
    ∧ after (exec .hupd { State.reset with hst := .final }) (fun t => t.hst == .final) = true := by decide +kernel

theorem witness_PointWrite : (4 : EReg) ≠ xReg 1 ∧ (4 : EReg) ≠ yReg 1 ∧ (0 : PReg) ≠ 1 := by decide

theorem witness_Pchk : t5g.lock = true ∧ ConfigOk t5g ∧ State.reset.lock = false := ⟨rfl, config_t5g, rfl⟩

/-- (1, 0) is not on RC5: both sides of the equation at x = 1. -/
theorem off_rc5 : PointOffCurve (withP rc5 1 0 0 1) 0 := by
  refine ⟨by decide +kernel, by decide +kernel, by decide +kernel, ?_⟩
  rw [show (withP rc5 1 0 0 1).cf.toNat = 0x21 by decide +kernel,
    show (withP rc5 1 0 0 1).ca.toNat = 1 by decide +kernel, show (withP rc5 1 0 0 1).cb.toNat = 1 by decide +kernel,
    show ((withP rc5 1 0 0 1).getE (xReg 0)).toNat = 1 by decide +kernel,
    show ((withP rc5 1 0 0 1).getE (yReg 0)).toNat = 0 by decide +kernel]
  rintro ⟨q, hq⟩
  exact not_multiple 1 1 (by decide) (by decide) q hq

/-- The least coordinate that is not canonical; a point off the curve; and each of them as PADD's second source, after a
first that passes. -/
theorem witness_PointErrors : State.reset.lock = false
    ∧ (withP rc5 0x20 0 0 1).lock = true ∧ ConfigOk (withP rc5 0x20 0 0 1) ∧ PointNotCanonical (withP rc5 0x20 0 0 1) 0
    ∧ (withP rc5 1 0 0 1).lock = true ∧ ConfigOk (withP rc5 1 0 0 1) ∧ PointOffCurve (withP rc5 1 0 0 1) 0
    ∧ PointOk (withP rc5 0x20 0 0 1) 1 ∧ PointOk (withP rc5 1 0 0 1) 1 :=
  ⟨rfl, rfl, by constructor <;> decide +kernel, ⟨by decide +kernel, by decide +kernel⟩, rfl,
    by constructor <;> decide +kernel, off_rc5, .inr ⟨by decide +kernel, by decide +kernel, 0, by decide +kernel⟩,
    .inr ⟨by decide +kernel, by decide +kernel, 0, by decide +kernel⟩⟩

/-- O; G, whose x has an inverse; (00, 01), whose x is 0; and RC5's (0C, 01), whose x has none (ER-2). -/
theorem witness_PnegPdblResults :
    (t5g.lock = true ∧ ConfigOk t5g ∧ PointOk t5g 0 ∧ t5g.getInf 0 = false ∧ (t5g.getE (xReg 0)).toNat = 8
        ∧ ∃ w, Inverse t5g.cf.toNat (t5g.getE (xReg 0)).toNat w)
      ∧ ((t5g.setP 0 .infinity).lock = true ∧ ConfigOk (t5g.setP 0 .infinity) ∧ PointOk (t5g.setP 0 .infinity) 0
        ∧ (t5g.setP 0 .infinity).getInf 0 = true)
      ∧ ((withP t5 0 1 0 1).getE (xReg 0) = 0#512 ∧ (withP t5 0 1 0 1).getInf 0 = false ∧ ConfigOk (withP t5 0 1 0 1)
        ∧ PointOk (withP t5 0 1 0 1) 0)
      ∧ (ConfigOk (withP rc5 0x0C 1 0 1) ∧ PointOk (withP rc5 0x0C 1 0 1) 0
        ∧ (withP rc5 0x0C 1 0 1).getInf 0 = false ∧ (withP rc5 0x0C 1 0 1).getE (xReg 0) ≠ 0#512
        ∧ ∀ w, ¬Inverse (withP rc5 0x0C 1 0 1).cf.toNat ((withP rc5 0x0C 1 0 1).getE (xReg 0)).toNat w) := by
  refine ⟨⟨rfl, config_t5g, ok_t5g_0, by decide +kernel, by decide +kernel, 0x16, 5, by decide +kernel⟩,
    ⟨rfl, by constructor <;> decide +kernel, .inl (by decide +kernel), by decide +kernel⟩,
    ⟨by decide +kernel, by decide +kernel, by constructor <;> decide +kernel,
      .inr ⟨by decide +kernel, by decide +kernel, 0, by decide +kernel⟩⟩,
    ⟨by constructor <;> decide +kernel, .inr ⟨by decide +kernel, by decide +kernel, 28, by decide +kernel⟩,
      by decide +kernel, by decide +kernel, fun w => by
        rw [show (withP rc5 0x0C 1 0 1).cf.toNat = 0x21 by decide +kernel,
          show ((withP rc5 0x0C 1 0 1).getE (xReg 0)).toNat = 0x0C by decide +kernel]
        exact no_inverse 0x0C 4 (by decide) (by decide) w⟩⟩

/-- O + G, G + O, G + G, G + (-G), G + 2G, and RC5's (00, 01) + (0C, 01), whose x1 + x2 has no inverse (ER-3). -/
theorem witness_PaddResults :
    (t5g.lock = true ∧ ConfigOk t5g ∧ PointOk t5g 0 ∧ PointOk t5g 1 ∧ t5g.getInf 0 = false ∧ t5g.getInf 1 = false
        ∧ ∃ w, Inverse t5g.cf.toNat (t5g.getE (xReg 0) ^^^ t5g.getE (xReg 1)).toNat w)
      ∧ ((t5g.setP 0 .infinity).getInf 0 = true ∧ (t5g.setP 0 .infinity).getInf 1 = false
        ∧ PointOk (t5g.setP 0 .infinity) 0)
      ∧ ((withP t5 8 0x17 8 0x1F).getE (xReg 0) = (withP t5 8 0x17 8 0x1F).getE (xReg 1)
        ∧ (withP t5 8 0x17 8 0x1F).getE (yReg 0) ≠ (withP t5 8 0x17 8 0x1F).getE (yReg 1)
        ∧ PointOk (withP t5 8 0x17 8 0x1F) 0 ∧ PointOk (withP t5 8 0x17 8 0x1F) 1)
      ∧ (ConfigOk (withP rc5 0x0C 1 0 1) ∧ PointOk (withP rc5 0x0C 1 0 1) 0 ∧ PointOk (withP rc5 0x0C 1 0 1) 1
        ∧ (withP rc5 0x0C 1 0 1).getE (xReg 0) ≠ (withP rc5 0x0C 1 0 1).getE (xReg 1)
        ∧ ∀ w, ¬Inverse (withP rc5 0x0C 1 0 1).cf.toNat
            ((withP rc5 0x0C 1 0 1).getE (xReg 0) ^^^ (withP rc5 0x0C 1 0 1).getE (xReg 1)).toNat w) := by
  refine ⟨⟨rfl, config_t5g, ok_t5g_0, ok_t5g_1, by decide +kernel, by decide +kernel, 31, 8, by decide +kernel⟩,
    ⟨by decide +kernel, by decide +kernel, .inl (by decide +kernel)⟩,
    ⟨by decide +kernel, by decide +kernel, .inr ⟨by decide +kernel, by decide +kernel, 28, by decide +kernel⟩,
      .inr ⟨by decide +kernel, by decide +kernel, 28, by decide +kernel⟩⟩,
    ⟨by constructor <;> decide +kernel, .inr ⟨by decide +kernel, by decide +kernel, 28, by decide +kernel⟩,
      .inr ⟨by decide +kernel, by decide +kernel, 0, by decide +kernel⟩, by decide +kernel,
      fun w => by
        rw [show (withP rc5 0x0C 1 0 1).cf.toNat = 0x21 by decide +kernel,
          show ((withP rc5 0x0C 1 0 1).getE (xReg 0) ^^^ (withP rc5 0x0C 1 0 1).getE (xReg 1)).toNat = 0x0C by
            decide +kernel]
        exact no_inverse 0x0C 4 (by decide) (by decide) w⟩⟩

/-- The scalars 0, 1, 10 = N - 1 and 11 = N, and a product that exists. -/
theorem witness_SmulResults : t5g.lock = true ∧ ConfigOk t5g ∧ PointOk t5g 0
    ∧ t5g.cn.toNat ≤ ((t5g.setE 4 11#512).getE 4).toNat ∧ ((t5g.setE 4 10#512).getE 4).toNat < t5g.cn.toNat
    ∧ ((t5g.setE 4 0#512).getE 4).toNat = 0 ∧ ((t5g.setE 4 1#512).getE 4).toNat = 1
    ∧ mulPoint t5g.cf t5g.ca (t5g.cn.toNat.log2 + 1) 10 (t5g.getP 0) = some (.affine 0x08#512 0x1F#512) :=
  ⟨rfl, config_t5g, ok_t5g_0, by decide +kernel, by decide +kernel, by decide +kernel, by decide +kernel,
    by decide +kernel⟩

theorem witness_PaddCommutes : t5g.lock = true ∧ ConfigOk t5g ∧ PointOk t5g 0 ∧ PointOk t5g 1 :=
  ⟨rfl, config_t5g, ok_t5g_0, ok_t5g_1⟩

theorem witness_ResultsOnCurve : t5g.lock = true ∧ ConfigOk t5g ∧ Instr.padd 2 0 1 ∈
    [Instr.padd 2 0 1, .pdbl 2 0, .pneg 2 0, .smul 2 0 15]
    ∧ after (exec (.padd 2 0 1) t5g) (fun t => t.err == .ok) = true :=
  ⟨rfl, config_t5g, by decide, by decide +kernel⟩

end Sys2Proof.Tests
end

section
/-! SUPPORT. What a command can write, said once: every state that a command completes into is the state it began in with one of
the named writes of its rule, and then R347's flags. -/

namespace Sys2Proof.Machine

/-- The commands that write BLOCK (R39): the ciphers and the six layers. -/
def blockWriters : List Instr := [.enc, .dec, .spnsb, .spnisb, .spnsr, .spnisr, .spnmc, .spnimc]

/-- The opcodes of the commands that write one element register (R126). -/
def elementOpcodes : List Nat := [0x01, 0x02, 0x10, 0x11, 0x12, 0x13, 0x14]

/-- The opcodes of the commands that write a point register: PADD, PDBL, PNEG and SMUL (R126). -/
def pointOpcodes : List Nat := [0x40, 0x41, 0x42, 0x44]

/-- `CommandWrites s i u`: the writes of the command i, begun in s, can leave u (before the flags of the completion). -/
inductive CommandWrites (s : State) : Instr → State → Prop where
  /-- No write: NOP, CFGLOCK under LOCK, and every command that ends in an error (R366). -/
  | nothing (i : Instr) : CommandWrites s i s
  /-- An element command writes its destination register. -/
  | element {i : Instr} (h : i.opcode ∈ elementOpcodes) (rd : EReg) (v : Elem) :
      CommandWrites s i (s.setE rd v)
  /-- PADD, PDBL, PNEG and SMUL write their destination point (R302). -/
  | point {i : Instr} (h : i.opcode ∈ pointOpcodes) (pd : PReg) (q : Point) :
      CommandWrites s i (s.setP pd q)
  /-- ENC, DEC and the layer commands write BLOCK (R39). -/
  | block {i : Instr} (h : i ∈ blockWriters) (v : Elem) :
      CommandWrites s i (s.setBlock v)
  /-- KEYEXP on a row of R240 writes RK and SCHED (R241, R250). -/
  | schedule {row : KeyRow} (h : keyRow s.kcfgBlk s.kcfgKlen = some row) :
      CommandWrites s .keyexp (s.setSchedule (expandSlots Config.ksb row s.key) row.rounds)
  /-- HINIT, HUPD and HFIN write the hash state and never make it IDLE (R45). -/
  | hash {i : Instr} (h : i = .hinit ∨ i = .hupd ∨ ∃ n, i = .hfin n) (hh hsig hlen : HashWord) {hst : HashLife}
      (hst_ne : hst ≠ .idle) : CommandWrites s i (s.setHash hh hsig hlen hst)
  /-- CFGLOCK sets LOCK over a valid configuration (R343). -/
  | lock (h : configValid s = true) : CommandWrites s .cfglock { s with lock := true }
  /-- PCHK writes ONC, under LOCK (R313). -/
  | onc (h : s.lock = true) (k : PReg) (b : Bool) : CommandWrites s (.pchk k) { s with onc := b }

section
variable {s : State} {i : Instr}

/-! ### From the commands' rules to their writes -/

/-- A command whose rule, where it succeeds, makes a write of `CommandWrites` completes with such a write. -/
theorem finish_writes {r : Except ErrCode State} (h : ∀ u, r = .ok u → CommandWrites s i u) :
    ∃ u code, CommandWrites s i u ∧ finish s r = .next (u.complete code) := by
  cases r with
  | ok u => exact ⟨u, .ok, h u rfl, rfl⟩
  | error code => exact ⟨s, code, .nothing i, rfl⟩

/-- What ENC and DEC share (R212, R213). -/
theorem cipherCommand_writes (h : i ∈ blockWriters)
    (f : Nat → Nat → (Nat → Bytes) → Bytes → Bytes) :
    ∃ u code, CommandWrites s i u ∧ cipherCommand s f = .next (u.complete code) := by
  refine finish_writes fun u hu => ?_
  split at hu <;> cases hu
  exact .block h _

/-- What the six layer commands share (R205). -/
theorem layerCommand_writes (h : i ∈ blockWriters)
    (f : Nat → Bytes → Bytes) :
    ∃ u code, CommandWrites s i u ∧ layerCommand s f = .next (u.complete code) := by
  refine finish_writes fun u hu => ?_
  split at hu <;> cases hu
  exact .block h _

/-- PWRITE of a computed point, where its divisions exist (R302, R307). -/
theorem writePoint_writes (h : i.opcode ∈ pointOpcodes) (pd : PReg) (q : Option Point) :
    ∀ u, writePoint s pd q = .ok u → CommandWrites s i u := by
  intro u hu
  cases q with
  | none => cases hu
  | some q => cases hu; exact .point h pd q

/-- Every command completes with one of the writes of `CommandWrites` and a code (R347). -/
theorem exec_writes (s : State) (i : Instr) :
    ∃ u code, CommandWrites s i u ∧ exec i s = .next (u.complete code) := by
  cases i
  case nop => exact ⟨s, .ok, .nothing _, rfl⟩
  case gf8mul | gf8inv | gfmadd | gfmmul | gfmsqr | gfminv | gfmred =>
    all_goals
      refine finish_writes fun u hu => ?_
      repeat' split at hu
      all_goals cases hu
      exact .element (by simp [Instr.opcode, elementOpcodes]) _ _
  case enc | dec => all_goals exact cipherCommand_writes (by decide) _
  case spnsb | spnisb | spnsr | spnisr | spnmc | spnimc => all_goals exact layerCommand_writes (by decide) _
  case keyexp =>
    refine finish_writes fun u hu => ?_
    split at hu <;> cases hu
    exact .schedule ‹_›
  case hinit => exact ⟨_, .ok, .hash (.inl rfl) _ _ _ (by decide), rfl⟩
  case hupd =>
    refine finish_writes fun u hu => ?_
    split at hu <;> cases hu
    exact .hash (.inr (.inl rfl)) _ _ _ (by simp_all)
  case hfin n =>
    refine finish_writes fun u hu => ?_
    repeat' split at hu
    all_goals cases hu
    unfold absorbPartial
    split
    all_goals exact .hash (.inr (.inr ⟨n, rfl⟩)) _ _ _ (by decide)
  case padd | pdbl =>
    all_goals
      refine finish_writes fun u hu => ?_
      split at hu
      · cases hu
      · exact writePoint_writes (by simp [Instr.opcode, pointOpcodes]) _ _ u hu
  case pneg =>
    refine finish_writes fun u hu => ?_
    split at hu <;> cases hu
    exact .point (by simp [Instr.opcode, pointOpcodes]) _ _
  case smul =>
    refine finish_writes fun u hu => ?_
    repeat' split at hu
    case h_2.isFalse => exact writePoint_writes (by simp [Instr.opcode, pointOpcodes]) _ _ u hu
    all_goals cases hu
  case pchk k =>
    refine finish_writes fun u hu => ?_
    split at hu <;> cases hu
    exact .onc (by simp_all) k _
  case cfglock =>
    refine finish_writes fun u hu => ?_
    repeat' split at hu
    all_goals cases hu
    · exact .nothing _
    · exact .lock ‹_›

end
end Sys2Proof.Machine
end

section
/-! SUPPORT. What each of a command's writes leaves unchanged, and the statement on the writers of state. -/

namespace Sys2Proof.Machine

namespace CommandWrites

variable {s u : State} {i : Instr}

/-- No command writes the operands that only the host writes, WERR, CMD or IRQ_EN (R38, R40, R41, R44, R48, R49, R51), or
anything of the host and the bus. -/
theorem host_fields_eq (w : CommandWrites s i u) :
    u.key = s.key ∧ u.kcfgBlk = s.kcfgBlk ∧ u.kcfgKlen = s.kcfgKlen ∧ u.curveM = s.curveM ∧ u.cf = s.cf
      ∧ u.ca = s.ca ∧ u.cb = s.cb ∧ u.cn = s.cn ∧ u.hiv = s.hiv ∧ u.hmsg = s.hmsg ∧ u.werr = s.werr
      ∧ u.cmd = s.cmd ∧ u.irqDoneEn = s.irqDoneEn ∧ u.irqErrEn = s.irqErrEn ∧ u.port = s.port
      ∧ u.answer = s.answer ∧ u.delay = s.delay ∧ u.draws = s.draws := by
  cases w <;> simp

theorem of_block_ne (w : CommandWrites s i u) (hne : u.block ≠ s.block) : i ∈ blockWriters := by
  cases w with
  | block h => exact h
  | _ => simp at hne

theorem of_schedule_ne (w : CommandWrites s i u)
    (hne : u.rk ≠ s.rk ∨ u.schedValid ≠ s.schedValid ∨ u.schedBlk ≠ s.schedBlk ∨ u.schedKlen ≠ s.schedKlen
      ∨ u.schedNr ≠ s.schedNr) : i = .keyexp := by
  cases w with
  | schedule => rfl
  | _ => simp at hne

theorem of_hash_ne (w : CommandWrites s i u)
    (hne : u.hh ≠ s.hh ∨ u.hsig ≠ s.hsig ∨ u.hlen ≠ s.hlen ∨ u.hst ≠ s.hst) :
    i = .hinit ∨ i = .hupd ∨ ∃ n, i = .hfin n := by
  cases w with
  | hash h => exact h
  | _ => simp at hne

theorem of_lock_ne (w : CommandWrites s i u) (hne : u.lock ≠ s.lock) : i = .cfglock := by
  cases w with
  | lock => rfl
  | _ => simp at hne

theorem of_onc_ne (w : CommandWrites s i u) (hne : u.onc ≠ s.onc) : ∃ k, i = .pchk k := by
  cases w with
  | onc _ k => exact ⟨k, rfl⟩
  | _ => simp at hne

theorem of_pinf_ne (w : CommandWrites s i u) (hne : u.pinf ≠ s.pinf) : i.opcode ∈ pointOpcodes := by
  cases w with
  | point h => exact h
  | _ => simp at hne

theorem of_e_ne (w : CommandWrites s i u) (hne : u.e ≠ s.e) : i.opcode ∈ elementOpcodes ++ pointOpcodes := by
  cases w with
  | element h => exact List.mem_append_left pointOpcodes h
  | point h => exact List.mem_append_right elementOpcodes h
  | _ => simp at hne

end CommandWrites

/-- Settles O11: the flags of the completion are none of the fields the statement names, so each clause is about the
command's writes. -/
theorem writersOfState : Obligations.WritersOfState := by
  intro s t i ht
  obtain ⟨u, code, w, hu⟩ := exec_writes s i
  cases hu.symm.trans ht
  exact ⟨w.host_fields_eq, w.of_block_ne, w.of_schedule_ne, w.of_hash_ne, w.of_lock_ne, w.of_onc_ne, w.of_pinf_ne,
    w.of_e_ne⟩

end Sys2Proof.Machine
end

section
/-! SUPPORT. What a host's turn can do, said once. -/

namespace Sys2Proof.Machine

/-- A read of the window leaves UKC as it is (R88); only the model's count of draws may move on. -/
theorem readWindow_eq (s : State) (r : WindowReg) : ∃ v n, s.readWindow r = (v, { s with draws := n }) := by
  unfold State.readWindow
  split
  · exact ⟨_, _, rfl⟩
  · exact ⟨_, s.draws, rfl⟩

/-- A served read, or its bus error: the answer, and nothing of UKC (R82, R88). -/
theorem serveRead_eq (s : State) (off size : Nat) :
    ∃ a n, serveRead s off size = { s with answer := some a, draws := n } := by
  obtain ⟨v, n, hread⟩ := readWindow_eq s (windowReg off)
  unfold serveRead
  rw [hread]
  split
  · exact ⟨_, _, rfl⟩
  · exact ⟨_, s.draws, rfl⟩

/-- Everything a host's turn can be: waiting with nothing at the port, an operation that leaves UKC's registers as they are, an
accepted write, and a hard reset. -/
theorem hostTurn_cases {s t : State} (h : hostTurn s = .next t) :
    (s.port = [] ∧ t = s)
      ∨ (∃ rest a n, t = { s.take rest with answer := some a, draws := n })
      ∨ (∃ off v rest, s.port = .write (base + off) 4 v :: rest ∧ off < 0x1000 ∧ off % 4 = 0
          ∧ t = { (s.take rest).writeReg (windowReg off) v with answer := some .written })
      ∨ ∃ rest, s.port = .hardReset :: rest ∧ t = (s.take rest).resetUnit := by
  unfold hostTurn at h
  split at h
  case h_1 hp => cases h; exact .inl ⟨hp, rfl⟩
  case h_2 addr size rest hp =>
    split at h
    · cases h
    · cases h; exact .inr (.inl ⟨rest, serveRead_eq _ _ _⟩)
  case h_3 addr size v rest hp =>
    split at h
    · cases h
    · rename_i off ho
      obtain ⟨rfl, hlt⟩ := windowOffset_eq_some ho
      cases h
      unfold serveWrite
      split
      · rename_i hok
        simp only [accessOk, Bool.and_eq_true, beq_iff_eq] at hok
        obtain ⟨rfl, ha⟩ := hok
        exact .inr (.inr (.inl ⟨off, v, rest, hp, hlt, ha, rfl⟩))
      · exact .inr (.inl ⟨rest, .writeError, s.draws, rfl⟩)
  case h_4 rest hp => cases h; exact .inr (.inl ⟨_, _, s.draws, rfl⟩)
  case h_5 addr mask v rest hp =>
    dsimp only at h
    repeat' split at h
    all_goals cases h
    exact .inr (.inl ⟨rest, serveRead_eq _ _ _⟩)
  case h_6 rest hp => cases h; exact .inr (.inr (.inr ⟨rest, hp, rfl⟩))

end Sys2Proof.Machine
end

section
/-! SUPPORT. Writes of the 32-bit registers, of the read-only registers and of the reserved offsets. -/

namespace Sys2Proof.Machine

section
variable (s : State)

/-! ### CTRL (R46) -/

/-- SRST resets, whatever the other bits are. -/
theorem writeCtrl_srst {v : Word} (h : v.getLsbD 0 = true) : s.writeCtrl v = s.resetUnit := if_pos h

theorem writeCtrl_clrwerr {v : Word} (h0 : v.getLsbD 0 = false) (h1 : v.getLsbD 1 = true) :
    s.writeCtrl v = { s with werr := false } := by
  simp only [State.writeCtrl, h0, h1, Bool.false_eq_true, if_false, if_true]

theorem writeCtrl_neither {v : Word} (h0 : v.getLsbD 0 = false) (h1 : v.getLsbD 1 = false) : s.writeCtrl v = s := by
  simp only [State.writeCtrl, h0, h1, Bool.false_eq_true, if_false]

/-! ### Command inputs and the curve configuration while BUSY = 0 (R93, R94) -/

theorem ifIdle_of_idle (h : s.busy = false) (t : State) : s.ifIdle t = t := by
  simp [State.ifIdle, h]

theorem ifUnlocked_of_idle (hb : s.busy = false) (hl : s.lock = false) (t : State) : s.ifUnlocked t = t := by
  simp [State.ifUnlocked, hb, hl]

theorem writeReg_kcfg_idle (h : s.busy = false) (v : Word) :
    s.writeReg .kcfg v = { s with kcfgBlk := v.extractLsb' 0 2, kcfgKlen := v.extractLsb' 4 2 } :=
  ifIdle_of_idle s h _

theorem writeReg_curveM_idle (hb : s.busy = false) (hl : s.lock = false) (v : Word) :
    s.writeReg .curveM v = { s with curveM := v.extractLsb' 0 10 } := by
  rw [← BitVec.setWidth_eq_extractLsb' (by decide)]
  exact ifUnlocked_of_idle s hb hl _

theorem writeReg_pinf_idle (h : s.busy = false) (v : Word) :
    s.writeReg .pinf v = { s with pinf := v.extractLsb' 0 8 } := by
  rw [← BitVec.setWidth_eq_extractLsb' (by decide)]
  exact ifIdle_of_idle s h _

/-! ### Read-only registers and reserved offsets (R85, R88) -/

theorem ReadOnlyOrReserved.lt_window {off : Nat} (h : ReadOnlyOrReserved off) : off < 0x1000 := by
  unfold ReadOnlyOrReserved at h
  omega

/-- Past PINF the 32-bit registers are SCHED and reserved offsets, and a write of either is ignored. -/
theorem writeReg_controlReg {n : Nat} (h : 10 ≤ n) (v : Word) : s.writeReg (controlReg n) v = s := by
  obtain ⟨k, rfl⟩ : ∃ k, n = k + 10 := ⟨n - 10, by omega⟩
  cases k <;> rfl

/-- HH, HSIG and HLEN, and the reserved offsets after them. -/
theorem writeReg_hashState {off : Nat} (h1 : 0x1C0 ≤ off) (h2 : off < 0x300) (v : Word) :
    s.writeReg (windowReg off) v = s := by
  rw [windowReg]
  iterate 5 rw [if_neg (by omega)]
  repeat' split
  all_goals rfl

/-- The round-key slots, and the reserved offsets after them. -/
theorem writeReg_roundKeys {off : Nat} (h : 0x800 ≤ off) (v : Word) : s.writeReg (windowReg off) v = s := by
  rw [windowReg]
  iterate 14 rw [if_neg (by omega)]
  split <;> rfl

/-- A write of a read-only register or of a reserved offset leaves UKC as it is, WERR included (R85, R88). -/
theorem writeReg_readOnly {off : Nat} (h : ReadOnlyOrReserved off) (v : Word) :
    s.writeReg (windowReg off) v = s := by
  rcases h with rfl | rfl | rfl | ⟨h1, h2⟩ | ⟨h1, h2⟩ | ⟨h1, -⟩
  · rfl
  · rfl
  · rfl
  · rw [windowReg, if_pos h2]
    exact writeReg_controlReg s (by omega) v
  · exact writeReg_hashState s h1 h2 v
  · exact writeReg_roundKeys s h1 v

end

/-! ### The statements -/

/-- Settles O23: the write is served in the step, and CTRL's bits 0 and 1 choose its effect. -/
theorem ctrlWrite : Obligations.CtrlWrite := by
  refine ⟨fun _ => rfl, fun s v rest hm hp => ?_⟩
  have hstep : step s = .next { (s.take rest).writeCtrl v with answer := some .written } :=
    step_write s hm (by decide) (by decide) hp
  refine ⟨fun h0 => ?_, fun h0 h1 => ?_, fun h0 h1 => ?_⟩
  · rw [hstep, writeCtrl_srst _ h0]; rfl
  · rw [hstep, writeCtrl_clrwerr _ h0 h1]; rfl
  · rw [hstep, writeCtrl_neither _ h0 h1]; rfl

/-- Settles O22: with BUSY = 0 the write is served in the step, and each place takes its writable fields from the word. -/
theorem controlWrites : Obligations.ControlWrites := by
  intro s off v rest hb ha hp
  have hstep (h : off < 0x1000) :
      step s = .next { (s.take rest).writeReg (windowReg off) v with answer := some .written } :=
    step_write s (.inl hb) h ha hp
  have hidle : (s.take rest).busy = false := hb
  refine ⟨?kcfg, ?curveM, ?pinf, ?irqEn, ?irqStat, ?readOnly⟩
  case kcfg =>
    rintro rfl
    rw [hstep (by decide), show windowReg 0x01C = .kcfg from rfl, writeReg_kcfg_idle _ hidle]
    rfl
  case curveM =>
    rintro rfl hl
    rw [hstep (by decide), show windowReg 0x020 = .curveM from rfl, writeReg_curveM_idle _ hidle hl]
    rfl
  case pinf =>
    rintro rfl
    rw [hstep (by decide), show windowReg 0x024 = .pinf from rfl, writeReg_pinf_idle _ hidle]
    rfl
  case irqEn => rintro rfl; exact hstep (by decide)
  case irqStat => rintro rfl; exact hstep (by decide)
  case readOnly =>
    intro h
    rw [hstep h.lt_window, writeReg_readOnly _ h]
    rfl

end Sys2Proof.Machine
end

section
/-! SUPPORT. The invariant `LegalState`: how it is kept by the flags of a command, by a command's writes, by a write of the host
and by every step. -/

namespace Sys2Proof.Machine

/-! ### The fields that a legal state is about -/

/-- `ConfigOk` is about CURVE_M, CF, CA, CB and CN alone. -/
theorem ConfigOk.of_eq {s t : State} (h : ConfigOk s) (hm : t.curveM = s.curveM) (hf : t.cf = s.cf)
    (ha : t.ca = s.ca) (hb : t.cb = s.cb) (hn : t.cn = s.cn) : ConfigOk t := by
  constructor <;> simp only [hm, hf, ha, hb, hn]
  exacts [h.degree_ge, h.degree_le, h.leading, h.degree, h.constant_term, h.a_canonical, h.b_canonical, h.b_ne_zero,
    h.order_ge]

/-- The state with every field that `LegalState` does not speak of as reset leaves it. -/
def State.legalPart (s : State) : State :=
  { State.reset with
    curveM := s.curveM, cf := s.cf, ca := s.ca, cb := s.cb, cn := s.cn
    rk := s.rk, schedValid := s.schedValid, schedBlk := s.schedBlk, schedKlen := s.schedKlen, schedNr := s.schedNr
    hh := s.hh, hsig := s.hsig, hlen := s.hlen, hst := s.hst
    busy := s.busy, done := s.done, err := s.err, lock := s.lock, onc := s.onc }

theorem legalState_legalPart (s : State) : LegalState s.legalPart ↔ LegalState s :=
  ⟨fun h => { h with config := fun hl => (h.config hl).of_eq rfl rfl rfl rfl rfl },
    fun h => { h with config := fun hl => (h.config hl).of_eq rfl rfl rfl rfl rfl }⟩

namespace LegalState

variable {s t : State}

theorem of_legalPart_eq (h : LegalState s) (e : t.legalPart = s.legalPart) : LegalState t :=
  (legalState_legalPart t).mp (e ▸ (legalState_legalPart s).mpr h)

/-- BUSY, DONE and ERR may be set to any values that R349 and R363 allow. -/
theorem withFlags (h : LegalState s) {busy done : Bool} {err : ErrCode}
    (hb : busy = true → done = false ∧ err = .ok) (he : err ≠ .ok → done = true) :
    LegalState { s with busy := busy, done := done, err := err } :=
  { h with
    config := fun hl => (h.config hl).of_eq rfl rfl rfl rfl rfl
    in_flight := hb
    error_done := he }

/-- A completion (R347). -/
theorem complete (h : LegalState s) (code : ErrCode) : LegalState (s.complete code) :=
  (h.withFlags (busy := false) (done := true) (err := code) (by simp) (by simp)).of_legalPart_eq rfl

/-- An acceptance (R346). -/
theorem accept (h : LegalState s) (w : Word) : LegalState (s.accept w) :=
  (h.withFlags (busy := true) (done := false) (err := .ok) (by simp) (by simp)).of_legalPart_eq rfl

/-- The curve configuration may change while LOCK is 0. -/
theorem withConfig (h : LegalState s) (hl : s.lock = false) (m : BitVec 10) (f a b n : Elem) :
    LegalState { s with curveM := m, cf := f, ca := a, cb := b, cn := n } :=
  { h with config := fun ht => absurd (hl.symm.trans ht) (by decide) }

/-- LOCK may be set over a valid configuration (R343, R344). -/
theorem withLock (h : LegalState s) (hc : ConfigOk s) : LegalState { s with lock := true } :=
  { h with
    config := fun _ => hc.of_eq rfl rfl rfl rfl rfl
    onc_locked := fun _ => rfl }

/-- ONC may be written under LOCK (R313). -/
theorem withOnc (h : LegalState s) (hl : s.lock = true) (b : Bool) : LegalState { s with onc := b } :=
  { h with
    config := fun _ => (h.config hl).of_eq rfl rfl rfl rfl rfl
    onc_locked := fun _ => hl }

/-- The hash state may become any that is not IDLE (R45). -/
theorem setHash (h : LegalState s) (hh hsig hlen : HashWord) {hst : HashLife} (hne : hst ≠ .idle) :
    LegalState (s.setHash hh hsig hlen hst) :=
  { h with
    config := fun hl => (h.config hl).of_eq rfl rfl rfl rfl rfl
    idle_hash := fun hi => absurd hi hne }

/-- RK and SCHED may become any schedule (R42, R43). -/
theorem setSchedule (h : LegalState s) {slots : Vector Elem 19} {rounds : Nat}
    (hs : ScheduleOk (s.setSchedule slots rounds)) : LegalState (s.setSchedule slots rounds) :=
  { h with
    config := fun hl => (h.config hl).of_eq rfl rfl rfl rfl rfl
    schedule := hs }

end LegalState

theorem getRk_replicate_zero {s : State} (h : s.rk = Vector.replicate 19 0#512) (i : Nat) : s.getRk i = 0#512 := by
  by_cases hi : i < 19 <;> simp [State.getRk, h, hi]

theorem legalState_reset : LegalState State.reset where
  config h := by cases h
  schedule := ⟨rfl, rfl, rfl, getRk_replicate_zero rfl⟩
  in_flight h := by cases h
  error_done h := absurd rfl h
  idle_hash _ := ⟨rfl, rfl, rfl⟩
  onc_locked h := by cases h

/-! ### CFGLOCK's checks -/

/-- CFGLOCK's checks are the configuration of R343 and R344. -/
theorem configValid_iff (s : State) : configValid s = true ↔ ConfigOk s := by
  simp only [configValid, Bool.and_eq_true, decide_eq_true_eq, beq_iff_eq, bne_iff_ne, isCanonical_iff,
    ushiftRight_eq_zero_iff]
  constructor
  · rintro ⟨⟨⟨⟨⟨⟨h2, h511⟩, hm, hd⟩, h0⟩, ha, hb⟩, hne⟩, hn⟩
    exact ⟨h2, h511, hm, hd, h0, ha, hb, hne, hn⟩
  · rintro ⟨h2, h511, hm, hd, h0, ha, hb, hne, hn⟩
    exact ⟨⟨⟨⟨⟨⟨h2, h511⟩, hm, hd⟩, h0⟩, ha, hb⟩, hne⟩, hn⟩

/-! ### KEYEXP's round keys -/

theorem length_evenKeys (box : SBoxes) (nb nk : Nat) (kt : Bytes) (n : Nat) (id tmv : Bytes) :
    (evenKeys box nb nk kt n id tmv).length = n := by
  fun_induction evenKeys box nb nk kt n id tmv <;> simp_all

theorem length_of_mem_evenKeys (box : SBoxes) (nb nk : Nat) (kt : Bytes) (n : Nat) (id tmv : Bytes) :
    ∀ k ∈ evenKeys box nb nk kt n id tmv, k.length = 8 * nb := by
  have htransform := length_keyTransform box nb kt
  fun_induction evenKeys box nb nk kt n id tmv
  case case1 => simp
  case case2 => simp
  case case3 ih => exact List.forall_mem_cons.mpr ⟨htransform _ _, List.forall_mem_cons.mpr ⟨htransform _ _, ih⟩⟩
  case case4 ih => exact List.forall_mem_cons.mpr ⟨htransform _ _, ih⟩

theorem length_withOddKeys (nb : Nat) (ks : List Bytes) : (withOddKeys nb ks).length = 2 * ks.length - 1 := by
  fun_induction withOddKeys nb ks
  case case1 => rfl
  case case2 => rfl
  case case3 k rest hne ih =>
    have : rest.length ≠ 0 := by simpa using hne
    simp only [List.length_cons, ih]
    omega

theorem length_of_mem_withOddKeys {nb n : Nat} {ks : List Bytes} (hks : ∀ k ∈ ks, k.length = n) :
    ∀ k ∈ withOddKeys nb ks, k.length = n := by
  fun_induction withOddKeys nb ks <;> simp_all

theorem length_of_mem_expandKey (box : SBoxes) (row : KeyRow) (key : Bytes) :
    ∀ k ∈ expandKey box row key, k.length = 8 * row.nb :=
  length_of_mem_withOddKeys (length_of_mem_evenKeys _ _ _ _ _ _ _)

/-- R240's round counts are even and fit SCHED.NR. -/
theorem keyRow_rounds {blk klen : BitVec 2} {row : KeyRow} (h : keyRow blk klen = some row) :
    row.rounds % 2 = 0 ∧ row.rounds ≤ 18 := by
  unfold keyRow at h
  split at h <;> cases h <;> decide

/-- EXPAND gives R + 1 round keys (R247). -/
theorem length_expandKey (box : SBoxes) {row : KeyRow} (heven : row.rounds % 2 = 0) (key : Bytes) :
    (expandKey box row key).length = row.rounds + 1 := by
  rw [expandKey, length_withOddKeys, length_evenKeys]
  omega

/-- Slot i after a KEYEXP: the i-th key, zero-extended, and zero past the last key (R250). -/
theorem getRk_storeKeys (s : State) {rks : List Bytes} (h : rks.length ≤ 19) (rounds i : Nat) :
    (s.setSchedule (storeKeys rks) rounds).getRk i = (rks[i]?.map zextBytes).getD 0#512 := by
  rw [State.getRk, setSchedule_rk]
  by_cases hi : i < 19
  · simp [storeKeys, hi]
  · have hpast : rks[i]? = none := List.getElem?_eq_none (by omega)
    simp [hi, hpast]

/-- R + 1 round keys of Nb words, stored on a row of R240, are a schedule of that row. -/
theorem scheduleOk_storeKeys {s : State} {row : KeyRow} {rks : List Bytes}
    (hrow : keyRow s.kcfgBlk s.kcfgKlen = some row) (hlen : rks.length = row.rounds + 1)
    (hkeys : ∀ k ∈ rks, k.length = 8 * row.nb) : ScheduleOk (s.setSchedule (storeKeys rks) row.rounds) := by
  have hle := (keyRow_rounds hrow).2
  have hslot := getRk_storeKeys s (rks := rks) (by omega) row.rounds
  rw [ScheduleOk, if_pos (setSchedule_schedValid ..)]
  refine ⟨row, hrow, ?_, fun i => ⟨?_, fun hi => ?_⟩⟩
  · rw [setSchedule_schedNr, BitVec.toNat_ofNat]
    omega
  · rw [hslot]
    cases hk : rks[i]? with
    | none =>
      rw [Option.map_none, Option.getD_none, BitVec.toNat_zero]
      exact Nat.two_pow_pos _
    | some k =>
      calc (zextBytes k).toNat < 2 ^ (8 * k.length) := toNat_zextBytes_lt k
        _ = 2 ^ (64 * row.nb) := by rw [hkeys k (List.mem_of_getElem? hk), ← Nat.mul_assoc]
  · rw [hslot, List.getElem?_eq_none (by omega)]
    rfl

/-- KEYEXP on a row of R240 leaves a schedule of that row (R241, R250). -/
theorem scheduleOk_keyexp {s : State} (box : SBoxes) {row : KeyRow}
    (hrow : keyRow s.kcfgBlk s.kcfgKlen = some row) :
    ScheduleOk (s.setSchedule (expandSlots box row s.key) row.rounds) :=
  scheduleOk_storeKeys hrow (length_expandKey box (keyRow_rounds hrow).1 _) (length_of_mem_expandKey box row _)

/-! ### Every step -/

/-- A command's writes keep a legal state legal. -/
theorem CommandWrites.legal {s u : State} {i : Instr} (w : CommandWrites s i u) (h : LegalState s) :
    LegalState u := by
  cases w with
  | nothing => exact h
  | element => exact h.of_legalPart_eq rfl
  | point _ pd q => exact h.of_legalPart_eq (by cases q <;> rfl)
  | block => exact h.of_legalPart_eq rfl
  | schedule hrow => exact h.setSchedule (scheduleOk_keyexp _ hrow)
  | hash _ hh hsig hlen hne => exact h.setHash hh hsig hlen hne
  | lock hc => exact h.withLock ((configValid_iff s).mp hc)
  | onc hl _ b => exact h.withOnc hl b

theorem LegalState.completeCommand {s t : State} (h : LegalState s) (ht : completeCommand s = .next t) :
    LegalState t := by
  unfold Machine.completeCommand at ht
  split at ht
  · obtain ⟨u, code, w, hu⟩ := exec_writes s ‹Instr›
    cases hu.symm.trans ht
    exact (w.legal h).complete code
  · cases ht
    exact h.complete .illegalCmd

namespace LegalState

variable {s t : State}

theorem resetUnit (s : State) : LegalState s.resetUnit := legalState_reset.of_legalPart_eq rfl

/-- A write of a command input has its effect or only sets WERR (R93). -/
theorem ifIdle (h : LegalState s) (ht : LegalState t) : LegalState (s.ifIdle t) := by
  unfold State.ifIdle
  split
  · exact h.of_legalPart_eq rfl
  · exact ht

/-- A write of the curve configuration keeps a legal state legal: it has an effect only while LOCK = 0 (R94). -/
theorem ifUnlocked (h : LegalState s) (m : BitVec 10) (f a b n : Elem) :
    LegalState (s.ifUnlocked { s with curveM := m, cf := f, ca := a, cb := b, cn := n }) := by
  unfold State.ifUnlocked
  split
  · exact h.of_legalPart_eq rfl
  · rename_i hl
    simp only [Bool.or_eq_true, not_or, Bool.not_eq_true] at hl
    exact h.withConfig hl.2 m f a b n

theorem writeCtrl (h : LegalState s) (v : Word) : LegalState (s.writeCtrl v) := by
  unfold State.writeCtrl
  split
  · exact resetUnit s
  · split
    · exact h.of_legalPart_eq rfl
    · exact h

theorem writeReg (h : LegalState s) (r : WindowReg) (v : Word) : LegalState (s.writeReg r v) := by
  cases r
  case ctrl => exact h.writeCtrl v
  case cmd => exact h.ifIdle (h.accept v)
  case curveM => exact h.ifUnlocked (v.setWidth 10) s.cf s.ca s.cb s.cn
  case cf w => exact h.ifUnlocked s.curveM (putWord s.cf w v) s.ca s.cb s.cn
  case ca w => exact h.ifUnlocked s.curveM s.cf (putWord s.ca w v) s.cb s.cn
  case cb w => exact h.ifUnlocked s.curveM s.cf s.ca (putWord s.cb w v) s.cn
  case cn w => exact h.ifUnlocked s.curveM s.cf s.ca s.cb (putWord s.cn w v)
  case kcfg | pinf | key | block | hiv | hmsg | elem => all_goals exact h.ifIdle (h.of_legalPart_eq rfl)
  all_goals exact h.of_legalPart_eq rfl

theorem hostTurn (h : LegalState s) (ht : hostTurn s = .next t) : LegalState t := by
  rcases hostTurn_cases ht with ⟨-, rfl⟩ | ⟨rest, a, n, rfl⟩ | ⟨off, v, rest, -, -, -, rfl⟩ | ⟨rest, -, rfl⟩
  · exact h
  · exact h.of_legalPart_eq rfl
  · have hr : LegalState (s.take rest) := h.of_legalPart_eq rfl
    exact (hr.writeReg (windowReg off) v).of_legalPart_eq rfl
  · exact resetUnit _

end LegalState

/-- Settles O13: a step is the completion of the command in flight or the host's turn. -/
theorem legalKept : Obligations.LegalKept := by
  intro s t h ht
  unfold step at ht
  split at ht
  · exact h.completeCommand ht
  · exact h.hostTurn ht

end Sys2Proof.Machine
end

section
/-! SUPPORT. The register window map read backwards: the offset of each place, and that the places and the reserved offsets are the
whole window (R84). -/

namespace Sys2Proof.Machine

/-- The offset of a place of the window (R84); for the reserved offsets, which are no one place, the first of them. -/
def WindowReg.offset : WindowReg → Nat
  | .id => 0x000
  | .version => 0x004
  | .ctrl => 0x008
  | .status => 0x00C
  | .cmd => 0x010
  | .irqEn => 0x014
  | .irqStat => 0x018
  | .kcfg => 0x01C
  | .curveM => 0x020
  | .pinf => 0x024
  | .sched => 0x028
  | .key w => 0x100 + 4 * w
  | .block w => 0x140 + 4 * w
  | .hiv w => 0x180 + 4 * w
  | .hmsg w => 0x1A0 + 4 * w
  | .hh w => 0x1C0 + 4 * w
  | .hsig w => 0x1E0 + 4 * w
  | .hlen w => 0x200 + 4 * w
  | .cf w => 0x300 + 4 * w
  | .ca w => 0x340 + 4 * w
  | .cb w => 0x380 + 4 * w
  | .cn w => 0x3C0 + 4 * w
  | .elem i w => 0x400 + 0x40 * i.val + 4 * w
  | .rk i w => 0x800 + 0x40 * i + 4 * w
  | .reserved => 0x02C

/-- The places of registers: a word index stands inside its register, and a round-key slot exists. -/
def WindowReg.Placed : WindowReg → Prop
  | .key w | .block w | .cf w | .ca w | .cb w | .cn w | .elem _ w => w < 16
  | .hiv w | .hmsg w | .hh w | .hsig w | .hlen w => w < 8
  | .rk i w => i < 19 ∧ w < 16
  | .reserved => False
  | .id | .version | .ctrl | .status | .cmd | .irqEn | .irqStat | .kcfg | .curveM | .pinf | .sched => True

/-- The reserved ranges of the map (R84, R85). -/
def ReservedOffset (off : Nat) : Prop :=
  (0x02C ≤ off ∧ off < 0x100) ∨ (0x220 ≤ off ∧ off < 0x300) ∨ (0xCC0 ≤ off ∧ off < 0x1000)

/-- Past SCHED the first 256 bytes are reserved. -/
theorem controlReg_reserved {n : Nat} (h : 11 ≤ n) : controlReg n = .reserved := by
  obtain ⟨k, rfl⟩ : ∃ k, n = k + 11 := ⟨n - 11, by omega⟩
  rfl

theorem windowReg_reserved {off : Nat} (h : ReservedOffset off) : windowReg off = .reserved := by
  rcases h with ⟨h1, h2⟩ | ⟨h1, h2⟩ | ⟨h1, h2⟩
  · simp (disch := omega) only [windowReg, if_pos, controlReg_reserved]
  · simp (disch := omega) only [windowReg, if_pos, if_neg]
  · simp (disch := omega) only [windowReg, if_neg]

/-- The map takes the offset of a place to the place. -/
theorem windowReg_of_eq_offset {r : WindowReg} (h : r.Placed) {off : Nat} (ho : off = r.offset) : windowReg off = r := by
  cases r <;> simp only [WindowReg.Placed, WindowReg.offset] at h ho
  case elem i w =>
    have hi : Fin.ofNat 16 ((off - 0x400) / 0x40) = i := Fin.ext (by simp only [Fin.val_ofNat]; omega)
    simp (disch := omega) only [windowReg, if_pos, if_neg, hi]
    congr 1
    omega
  case rk i w =>
    simp (disch := omega) only [windowReg, if_pos, if_neg]
    congr 1 <;> omega
  case key | block | hiv | hmsg | hh | hsig | hlen | cf | ca | cb | cn =>
    all_goals
      simp (disch := omega) only [windowReg, if_pos, if_neg]
      congr 1
      omega
  all_goals subst ho; rfl

/-- The first eleven words of the window are the 32-bit registers. -/
theorem controlReg_placed {n : Nat} (h : n < 11) : (controlReg n).Placed ∧ 4 * n = (controlReg n).offset := by
  interval_cases n <;> exact ⟨trivial, rfl⟩

/-- Every word of the window is the place of a register or reserved. -/
theorem reserved_or_offset {off : Nat} (h : off < 0x1000) (ha : off % 4 = 0) :
    ReservedOffset off ∨ ∃ r : WindowReg, r.Placed ∧ off = r.offset := by
  have hranges : ReservedOffset off ∨ off < 0x02C
      ∨ 0x100 ≤ off ∧ off < 0x140 ∨ 0x140 ≤ off ∧ off < 0x180 ∨ 0x180 ≤ off ∧ off < 0x1A0 ∨ 0x1A0 ≤ off ∧ off < 0x1C0
      ∨ 0x1C0 ≤ off ∧ off < 0x1E0 ∨ 0x1E0 ≤ off ∧ off < 0x200 ∨ 0x200 ≤ off ∧ off < 0x220
      ∨ 0x300 ≤ off ∧ off < 0x340 ∨ 0x340 ≤ off ∧ off < 0x380 ∨ 0x380 ≤ off ∧ off < 0x3C0 ∨ 0x3C0 ≤ off ∧ off < 0x400
      ∨ 0x400 ≤ off ∧ off < 0x800 ∨ 0x800 ≤ off ∧ off < 0xCC0 := by
    unfold ReservedOffset
    omega
  rcases hranges with hres | hc | hr | hr | hr | hr | hr | hr | hr | hr | hr | hr | hr | hr | hr
  · exact .inl hres
  · obtain ⟨n, rfl⟩ : ∃ n, off = 4 * n := ⟨off / 4, by omega⟩
    exact .inr ⟨controlReg n, controlReg_placed (by omega)⟩
  all_goals
    refine .inr ⟨windowReg off, ?_⟩
    simp (disch := omega) only [windowReg, if_pos, if_neg, WindowReg.Placed, WindowReg.offset, Fin.val_ofNat]
    omega

end Sys2Proof.Machine
end

section
/-! SUPPORT. Reads of the window: that they see UKC's registers alone, and what is exact while BUSY = 1; and the statements on reads
and on bus errors. -/

namespace Sys2Proof.Machine

section
variable (s : State)

/-! ### What a read sees -/

/-- The port, the bus's answer and the model's counts stand at no place of the window. -/
theorem readReg_host_fields (r : WindowReg) (port : List HostOp) (answer : Option BusAnswer) (delay draws : Nat) :
    { s with port := port, answer := answer, delay := delay, draws := draws }.readReg r = s.readReg r := by
  cases r <;> rfl

theorem readReg_take (rest : List HostOp) (r : WindowReg) : (s.take rest).readReg r = s.readReg r :=
  readReg_host_fields s r rest s.answer (s.delay - 1) s.draws

/-- The places that read exactly while BUSY = 1 are those at R92's offsets. -/
theorem exactWhileBusy_iff {off : Nat} (h : off < 0x1000) (ha : off % 4 = 0) :
    (windowReg off).exactWhileBusy = true ↔ ExactOffset off := by
  rcases reserved_or_offset h ha with hres | ⟨r, hr, ho⟩
  · rw [windowReg_reserved hres]
    exact iff_of_true rfl (.inr hres)
  · rw [windowReg_of_eq_offset hr ho]
    unfold ExactOffset
    cases r <;> simp only [WindowReg.Placed, WindowReg.offset] at hr ho
    case id | version | ctrl | status | cmd | irqEn | irqStat => all_goals exact iff_of_true rfl (by omega)
    all_goals exact iff_of_false Bool.false_ne_true (by omega)

theorem readWindow_idle (h : s.busy = false) (r : WindowReg) : s.readWindow r = (s.readReg r, s) := by
  simp only [State.readWindow, h, Bool.false_and, Bool.false_eq_true, if_false]

theorem readWindow_exact {r : WindowReg} (h : r.exactWhileBusy = true) : s.readWindow r = (s.readReg r, s) := by
  simp only [State.readWindow, h, Bool.not_true, Bool.and_false, Bool.false_eq_true, if_false]

theorem readWindow_unspecified {r : WindowReg} (hb : s.busy = true) (h : ¬r.exactWhileBusy = true) :
    s.readWindow r = (Config.busyRead s.draws, { s with draws := s.draws + 1 }) := by
  simp only [State.readWindow, hb, h, Bool.not_false, Bool.and_true, if_true]

/-- A read that is exact answers the register's value and leaves UKC as it is. -/
theorem step_read_exact {off : Nat} {rest : List HostOp} (hm : HostMoves s) (h : off < 0x1000) (ha : off % 4 = 0)
    (hp : s.port = .read (base + off) 4 :: rest)
    (hread : (s.take rest).readWindow (windowReg off) = ((s.take rest).readReg (windowReg off), s.take rest)) :
    step s = .next
      { s with port := rest, answer := some (.data (s.readReg (windowReg off))), delay := s.delay - 1 } := by
  rw [step_read s hm h ha hp, hread, readReg_take]
  rfl

/-! ### Bus errors (R82) -/

theorem accessOk_eq_false {off size : Nat} (h : size ≠ 4 ∨ off % 4 ≠ 0) : accessOk off size = false := by
  simpa [accessOk, imp_iff_not_or] using h

/-- A read of any size inside the window is served. -/
theorem hostTurn_read {addr off size : Nat} {rest : List HostOp} (hp : s.port = .read addr size :: rest)
    (ho : windowOffset addr = some off) : hostTurn s = .next (serveRead (s.take rest) off size) := by
  rw [hostTurn, hp]
  simp only [ho]

/-- A write of any size inside the window is served. -/
theorem hostTurn_write {addr off size : Nat} {v : Word} {rest : List HostOp} (hp : s.port = .write addr size v :: rest)
    (ho : windowOffset addr = some off) : hostTurn s = .next (serveWrite (s.take rest) off size v) := by
  rw [hostTurn, hp]
  simp only [ho]

end

/-! ### The statements -/

/-- Settles O20: with BUSY = 0 every read is exact. -/
theorem idleReads : Obligations.IdleReads := fun s _ rest hb ha h hp =>
  step_read_exact s (.inl hb) h ha hp (readWindow_idle (s.take rest) hb _)

/-- Settles O17: with BUSY = 1 the reads of R92's offsets are exact, and every other read draws a value. -/
theorem busyReads : Obligations.BusyReads := by
  intro s off rest hb hd ha h hp
  refine ⟨fun hex => ?_, fun hex => ⟨Config.busyRead s.draws, ?_⟩⟩
  · exact step_read_exact s (.inr hd) h ha hp (readWindow_exact _ ((exactWhileBusy_iff h ha).mpr hex))
  · rw [step_read s (.inr hd) h ha hp,
      readWindow_unspecified (s.take rest) hb (mt (exactWhileBusy_iff h ha).mp hex)]
    rfl

/-- Settles O18: the access is decided by its size and alignment before its place is looked at. -/
theorem badAccess : Obligations.BadAccess := by
  intro s off size v rest hm h
  refine ⟨fun hp => ⟨fun hbad => ?_, ?_⟩, fun hp => ⟨fun hbad => ?_, ?_⟩⟩
  · rw [step_of_hostMoves s hm (by simp [hp]), hostTurn_read s hp (windowOffset_base h), serveRead,
      accessOk_eq_false hbad]
    rfl
  · rintro rfl ha
    exact ⟨_, _, step_read s hm h ha hp, rfl⟩
  · rw [step_of_hostMoves s hm (by simp [hp]), hostTurn_write s hp (windowOffset_base h), serveWrite,
      accessOk_eq_false hbad]
    rfl
  · rintro rfl ha
    exact ⟨_, step_write s hm h ha hp, rfl⟩

end Sys2Proof.Machine
end

section
/-! SUPPORT. Where each field and byte stands in the word that a read gives, and the statement on the whole map. -/

namespace Sys2Proof.Machine

section
variable (s : State)

/-! ### Packed fields of the 32-bit registers -/

/-- A field packed at bit k, above fields that end below it. -/
theorem testBit_add_field {lo k : Nat} (h : lo < 2 ^ k) (v b : Nat) :
    (lo + v * 2 ^ k).testBit b = if b < k then lo.testBit b else v.testBit (b - k) := by
  rw [Nat.add_comm, Nat.mul_comm, Nat.testBit_two_pow_mul_add v h]

theorem ErrCode.code_lt (e : ErrCode) : e.code < 8 := by
  cases e <;> decide

theorem HashLife.code_lt (l : HashLife) : l.code < 4 := by
  cases l <;> decide

theorem HashLife.testBit_code (l : HashLife) (b : Nat) :
    l.code.testBit b = if b = 0 then l == .active else if b = 1 then l == .final else false := by
  rcases b with _ | _ | b <;> cases l <;> simp [HashLife.code, Nat.testBit_succ]

theorem getLsbD_statusWord {b : Nat} (h : b < 32) :
    s.statusWord.getLsbD b =
      (if b = 0 then s.busy else if b = 1 then s.done
        else if 4 ≤ b ∧ b ≤ 7 then s.err.code.testBit (b - 4)
        else if b = 8 then s.schedValid
        else if b = 9 then s.hst == .active else if b = 10 then s.hst == .final
        else if b = 11 then s.lock else if b = 12 then s.onc else if b = 13 then s.werr else false) := by
  have hbusy := s.busy.toNat_lt
  have hdone := s.done.toNat_lt
  have herr := s.err.code_lt
  have hvalid := s.schedValid.toNat_lt
  have hhst := s.hst.code_lt
  have hlock := s.lock.toNat_lt
  have honc := s.onc.toNat_lt
  rw [State.statusWord, BitVec.getLsbD_ofNat, decide_eq_true h, Bool.true_and]
  iterate 7 rw [testBit_add_field (by omega)]
  simp only [Nat.testBit_bool_toNat, HashLife.testBit_code]
  interval_cases b <;> simp

/-- Two flags packed in bits 0 and 1, as in IRQ_EN and IRQ_STAT. -/
theorem getLsbD_twoFlags (x y : Bool) {b : Nat} (h : b < 32) :
    (BitVec.ofNat 32 (x.toNat + y.toNat * 2 ^ 1)).getLsbD b = if b = 0 then x else if b = 1 then y else false := by
  rw [BitVec.getLsbD_ofNat, decide_eq_true h, Bool.true_and, testBit_add_field x.toNat_lt]
  simp only [Nat.testBit_bool_toNat]
  rcases b with _ | _ | b <;> simp

/-- A register alone in its word from bit 0, as CURVE_M and PINF: every bit above it is zero. -/
theorem getLsbD_zeroExtended {n : Nat} (v : BitVec n) {b : Nat} (h : b < 32) :
    (v.setWidth 32).getLsbD b = v.getLsbD b := by
  rw [BitVec.getLsbD_setWidth, decide_eq_true h, Bool.true_and]

theorem getLsbD_kcfgWord {b : Nat} (h : b < 32) :
    s.kcfgWord.getLsbD b =
      if b < 2 then s.kcfgBlk.getLsbD b else if 4 ≤ b then s.kcfgKlen.getLsbD (b - 4) else false := by
  have hblk := s.kcfgBlk.isLt
  rw [State.kcfgWord, BitVec.getLsbD_ofNat, decide_eq_true h, Bool.true_and, testBit_add_field (by omega)]
  simp only [BitVec.testBit_toNat]
  interval_cases b <;> simp

theorem getLsbD_schedWord {b : Nat} (h : b < 32) :
    s.schedWord.getLsbD b =
      (if b = 0 then s.schedValid else if b < 3 then s.schedBlk.getLsbD (b - 1)
        else if b < 4 then false else if b < 8 then s.schedKlen.getLsbD (b - 4)
        else s.schedNr.getLsbD (b - 8)) := by
  have hvalid := s.schedValid.toNat_lt
  have hblk := s.schedBlk.isLt
  have hklen := s.schedKlen.isLt
  rw [State.schedWord, BitVec.getLsbD_ofNat, decide_eq_true h, Bool.true_and]
  iterate 3 rw [testBit_add_field (by omega)]
  simp only [Nat.testBit_bool_toNat, BitVec.testBit_toNat]
  interval_cases b <;> simp

/-! ### Bytes of the wide registers (R86) -/

/-- Byte b of the bus word at index w is byte 4w + b of the register. -/
theorem byteAt_wordAt {n : Nat} (v : BitVec n) (w : Nat) {b : Nat} (h : b < 4) :
    byteAt (wordAt v w) b = byteAt v (4 * w + b) := by
  apply BitVec.eq_of_getLsbD_eq
  intro i hi
  have hin : 8 * b + i < 32 := by omega
  have hbit : 32 * w + (8 * b + i) = 8 * (4 * w + b) + i := by omega
  rw [getLsbD_byteAt, getLsbD_byteAt, getLsbD_wordAt, decide_eq_true hin, Bool.true_and, hbit]

/-- A read of a word of a wide register gives its bytes, byte 4w first. -/
theorem byteAt_readReg {n : Nat} {v : BitVec n} {r : WindowReg} {w b : Nat} (hr : r.Placed)
    (hv : s.readReg r = wordAt v w) (hb : b < 4) :
    byteAt (s.readReg (windowReg r.offset)) b = byteAt v (4 * w + b) := by
  rw [windowReg_of_eq_offset hr rfl, hv, byteAt_wordAt v w hb]

end

/-- Settles O19: the map takes each offset to its place, and each place reads its register. -/
theorem windowReads : Obligations.WindowReads := by
  intro s
  refine ⟨⟨rfl, rfl, rfl, rfl⟩, fun _ => getLsbD_statusWord s, fun _ => getLsbD_twoFlags _ _,
    fun _ => getLsbD_twoFlags _ _, fun _ => getLsbD_kcfgWord s, fun _ => getLsbD_zeroExtended _,
    fun _ => getLsbD_zeroExtended _, fun _ => getLsbD_schedWord s, fun w b hw hb => ?wide512,
    fun w b hw hb => ?wide256, fun off hoff => ?reserved⟩
  case wide512 =>
    exact ⟨byteAt_readReg s (r := .key w) hw rfl hb, byteAt_readReg s (r := .block w) hw rfl hb,
      byteAt_readReg s (r := .cf w) hw rfl hb, byteAt_readReg s (r := .ca w) hw rfl hb,
      byteAt_readReg s (r := .cb w) hw rfl hb, byteAt_readReg s (r := .cn w) hw rfl hb,
      fun i => byteAt_readReg s (r := .elem i w) hw rfl hb,
      fun i hi => byteAt_readReg s (r := .rk i w) ⟨hi, hw⟩ rfl hb⟩
  case wide256 =>
    exact ⟨byteAt_readReg s (r := .hiv w) hw rfl hb, byteAt_readReg s (r := .hmsg w) hw rfl hb,
      byteAt_readReg s (r := .hh w) hw rfl hb, byteAt_readReg s (r := .hsig w) hw rfl hb,
      byteAt_readReg s (r := .hlen w) hw rfl hb⟩
  case reserved =>
    rw [windowReg_reserved hoff]
    rfl

end Sys2Proof.Machine
end

section
/-! SUPPORT. Writes while BUSY = 1 (R93), and the statement on them. -/

namespace Sys2Proof.Machine

section
variable (s : State)

theorem ifIdle_of_busy (h : s.busy = true) (t : State) : s.ifIdle t = { s with werr := true } := if_pos h

theorem ifUnlocked_of_busy (h : s.busy = true) (t : State) : s.ifUnlocked t = { s with werr := true } :=
  if_pos (by rw [h, Bool.true_or])

/-- With BUSY = 1 a write of a command input only sets WERR. -/
theorem writeReg_commandInput_busy (hb : s.busy = true) {off : Nat} (h : CommandInput off) (ha : off % 4 = 0) (v : Word) :
    s.writeReg (windowReg off) v = { s with werr := true } := by
  unfold CommandInput at h
  rcases reserved_or_offset (by omega) ha with hres | ⟨r, hr, ho⟩
  · unfold ReservedOffset at hres
    omega
  · rw [windowReg_of_eq_offset hr ho]
    cases r <;> simp only [WindowReg.Placed, WindowReg.offset] at hr ho
    case cmd | kcfg | pinf | key | block | hiv | hmsg | elem => all_goals exact ifIdle_of_busy s hb _
    case curveM | cf | ca | cb | cn => all_goals exact ifUnlocked_of_busy s hb _
    all_goals omega

end

/-- Settles O16: the write is served in the step, and the class of its offset gives its effect. -/
theorem busyWrites : Obligations.BusyWrites := by
  intro s off v rest hb hd ha hp
  have hstep (h : off < 0x1000) :
      step s = .next { (s.take rest).writeReg (windowReg off) v with answer := some .written } :=
    step_write s (.inr hd) h ha hp
  refine ⟨?srst, ?clrwerr, ?irqEn, ?irqStat, fun hin => ?commandInput, fun hro => ?readOnly⟩
  case srst =>
    rintro rfl h0
    exact (ctrlWrite.2 s v rest (.inr hd) hp).1 h0
  case clrwerr =>
    rintro rfl h0
    obtain ⟨-, hclear, hkeep⟩ := ctrlWrite.2 s v rest (.inr hd) hp
    cases h1 : v.getLsbD 1 with
    | true => rw [hclear h0 h1, Bool.not_true, Bool.and_false]
    | false => rw [hkeep h0 h1, Bool.not_false, Bool.and_true]
  case irqEn => rintro rfl; exact hstep (by decide)
  case irqStat => rintro rfl; exact hstep (by decide)
  case commandInput =>
    have hlt : off < 0x1000 := by unfold CommandInput at hin; omega
    rw [hstep hlt, writeReg_commandInput_busy (s.take rest) hb hin ha]
    rfl
  case readOnly =>
    rw [hstep hro.lt_window, writeReg_readOnly _ hro]
    rfl

end Sys2Proof.Machine
end

section
/-! SUPPORT. Writes of one word of a wide register while BUSY = 0, and the statement on them. -/

namespace Sys2Proof.Machine

/-- The places of wide registers that the host may write in this state: KEY, BLOCK, HIV, HMSG and E0..E15, and without LOCK also
CF, CA, CB and CN (R84, R94). -/
def State.WideWritable (s : State) : WindowReg → Prop
  | .key _ | .block _ | .hiv _ | .hmsg _ | .elem _ _ => True
  | .cf _ | .ca _ | .cb _ | .cn _ => s.lock = false
  | _ => False

/-- One word of a wide register replaced. -/
def State.putWide (s : State) (r : WindowReg) (v : Word) : State :=
  match r with
  | .key w => { s with key := putWord s.key w v }
  | .block w => { s with block := putWord s.block w v }
  | .hiv w => { s with hiv := putWord s.hiv w v }
  | .hmsg w => { s with hmsg := putWord s.hmsg w v }
  | .cf w => { s with cf := putWord s.cf w v }
  | .ca w => { s with ca := putWord s.ca w v }
  | .cb w => { s with cb := putWord s.cb w v }
  | .cn w => { s with cn := putWord s.cn w v }
  | .elem i w => s.setE i (putWord (s.getE i) w v)
  | _ => s

section
variable (s : State) {r r' : WindowReg} (v : Word)

/-- With BUSY = 0 a write of a writable wide register replaces the word it names, and nothing else (R83, R89). -/
theorem writeReg_wide (hb : s.busy = false) (h : s.WideWritable r) : s.writeReg r v = s.putWide r v := by
  cases r
  case key | block | hiv | hmsg | elem => all_goals exact ifIdle_of_idle s hb _
  case cf | ca | cb | cn => all_goals exact ifUnlocked_of_idle s hb h _
  all_goals exact h.elim

theorem putWide_busy (r : WindowReg) : (s.putWide r v).busy = s.busy := by cases r <;> rfl

theorem putWide_port (r : WindowReg) : (s.putWide r v).port = s.port := by cases r <;> rfl

/-- The word reads back as written. -/
theorem readReg_putWide_same (h : s.WideWritable r) (hr : r.Placed) : (s.putWide r v).readReg r = v := by
  cases r <;> simp only [WindowReg.Placed] at hr
  case key | block | hiv | hmsg | cf | ca | cb | cn => all_goals exact wordAt_putWord_same _ _ v (by omega)
  case elem i w =>
    rw [State.readReg, State.putWide, getE_setE_same]
    exact wordAt_putWord_same _ _ v (by omega)
  all_goals exact h.elim

/-- Every other place of the window reads as before: another word of the same register, or another register. -/
theorem readReg_putWide_ne (hr' : r'.Placed) (hne : r' ≠ r) : (s.putWide r v).readReg r' = s.readReg r' := by
  cases r
  case elem i w =>
    cases r' with
    | elem j u =>
      rw [State.putWide, State.readReg, State.readReg]
      by_cases hji : j = i
      · subst hji
        have hu : u < 16 := hr'
        rw [getE_setE_same, wordAt_putWord_ne _ _ _ _ (by rintro rfl; exact hne rfl) (by omega)]
      · rw [getE_setE_ne s hji]
    | _ => rfl
  case key | block | hiv | hmsg | cf | ca | cb | cn =>
    all_goals
      cases r'
      any_goals rfl
      simp only [WindowReg.Placed] at hr'
      exact wordAt_putWord_ne _ _ _ v (by rintro rfl; exact hne rfl) (by omega)
  all_goals rfl

/-- The words of R84's ranges that the host may write are places of writable wide registers. -/
theorem exists_wideWritable {off : Nat} (ha : off % 4 = 0)
    (h : (0x100 ≤ off ∧ off < 0x1C0) ∨ (0x300 ≤ off ∧ off < 0x400 ∧ s.lock = false) ∨ (0x400 ≤ off ∧ off < 0x800)) :
    ∃ r : WindowReg, r.Placed ∧ off = r.offset ∧ s.WideWritable r := by
  rcases reserved_or_offset (by omega) ha with hres | ⟨r, hr, ho⟩
  · unfold ReservedOffset at hres
    omega
  · refine ⟨r, hr, ho, ?_⟩
    cases r <;> simp only [WindowReg.Placed, WindowReg.offset] at hr ho
    case key | block | hiv | hmsg | elem => all_goals trivial
    case cf | ca | cb | cn =>
      all_goals
        rcases h with h | ⟨-, -, hl⟩ | h
        · omega
        · exact hl
        · omega
    all_goals omega

end

/-- Settles O21: the write replaces one word of one register, and different words of the window are different places. -/
theorem wideWrites : Obligations.WideWrites := by
  intro s off v rest hb ha hrange hp
  obtain ⟨r, hr, ho, hw⟩ := exists_wideWritable s ha hrange
  have hstep : step s = .next { (s.take rest).putWide r v with answer := some .written } := by
    rw [step_write s (.inl hb) (by omega) ha hp, windowReg_of_eq_offset hr ho, writeReg_wide (s.take rest) v hb hw]
  have hread (r' : WindowReg) :
      State.readReg { (s.take rest).putWide r v with answer := some .written } r'
        = ((s.take rest).putWide r v).readReg r' :=
    readReg_host_fields ((s.take rest).putWide r v) r' _ (some .written) _ _
  refine ⟨_, hstep, (putWide_busy _ v r).trans hb, putWide_port _ v r, rfl, ?same, fun other hoa hlt hne => ?other⟩
  case same =>
    rw [windowReg_of_eq_offset hr ho, hread]
    exact readReg_putWide_same (s.take rest) v hw hr
  case other =>
    rw [hread]
    rcases reserved_or_offset hlt hoa with hres | ⟨r', hr', ho'⟩
    · rw [windowReg_reserved hres]
      rfl
    · have hplace : r' ≠ r := by
        rintro rfl
        exact hne (ho'.trans ho.symm)
      rw [windowReg_of_eq_offset hr' ho', readReg_putWide_ne (s.take rest) v hr' hplace, readReg_take]

end Sys2Proof.Machine
end

section
/-! SUPPORT. What waits at the port over a step, and the statement that no step stops. -/

namespace Sys2Proof.Machine

section
variable (s : State)

/-! ### Accesses keep what waits at the port -/

theorem ifIdle_port {t : State} (h : t.port = s.port) : (s.ifIdle t).port = s.port := by
  unfold State.ifIdle
  split
  · rfl
  · exact h

theorem ifUnlocked_port {t : State} (h : t.port = s.port) : (s.ifUnlocked t).port = s.port := by
  unfold State.ifUnlocked
  split
  · rfl
  · exact h

theorem writeCtrl_port (v : Word) : (s.writeCtrl v).port = s.port := by
  unfold State.writeCtrl
  repeat' split
  all_goals rfl

/-- A write keeps the operations that wait, CTRL.SRST included. -/
theorem writeReg_port (r : WindowReg) (v : Word) : (s.writeReg r v).port = s.port := by
  cases r
  case ctrl => exact writeCtrl_port s v
  case cmd | kcfg | pinf | key | block | hiv | hmsg | elem => all_goals exact ifIdle_port s rfl
  case curveM | cf | ca | cb | cn => all_goals exact ifUnlocked_port s rfl
  all_goals rfl

theorem serveRead_port (off size : Nat) : (serveRead s off size).port = s.port := by
  obtain ⟨a, n, h⟩ := serveRead_eq s off size
  rw [h]

theorem serveWrite_port (off size : Nat) (v : Word) : (serveWrite s off size v).port = s.port := by
  unfold serveWrite
  split
  · exact writeReg_port s (windowReg off) v
  · rfl

theorem serveWait_port (rest : List HostOp) :
    (serveWait s rest).port = if s.busy then .wait :: rest else rest := rfl

end

theorem CommandWrites.port_eq {s u : State} {i : Instr} (w : CommandWrites s i u) : u.port = s.port := by
  cases w <;> simp

/-! ### Both agents answer a next state -/

theorem windowOffset_of_inWindow {addr : Nat} (h : base ≤ addr ∧ addr < base + 0x1000) :
    windowOffset addr = some (addr - base) := if_pos h

/-- The host's turn on operations that keep to the window is served, and what is left at the port was there before. -/
theorem hostTurn_inWindow {s : State} (h : PortInWindow s) :
    ∃ t, hostTurn s = .next t ∧ ∀ op ∈ t.port, op ∈ s.port := by
  cases hp : s.port with
  | nil => exact ⟨s, by rw [hostTurn, hp], fun op hop => hp ▸ hop⟩
  | cons op rest =>
    have hop : op.inWindow := h op (hp ▸ List.mem_cons_self)
    cases op with
    | read addr size =>
      refine ⟨_, hostTurn_read s hp (windowOffset_of_inWindow hop), ?_⟩
      rw [serveRead_port]
      exact fun _ => List.mem_cons_of_mem _
    | write addr size v =>
      refine ⟨_, hostTurn_write s hp (windowOffset_of_inWindow hop), ?_⟩
      rw [serveWrite_port]
      exact fun _ => List.mem_cons_of_mem _
    | wait =>
      refine ⟨serveWait s rest, by rw [hostTurn, hp], ?_⟩
      rw [serveWait_port]
      split
      · exact fun _ => id
      · exact fun _ => List.mem_cons_of_mem _
    | check addr mask v => exact hop.elim
    | hardReset => exact ⟨serveHardReset (s.take rest), by rw [hostTurn, hp], fun _ => List.mem_cons_of_mem _⟩

/-- The core's completion answers a next state and leaves the port alone (R377). -/
theorem completeCommand_next (s : State) : ∃ t, completeCommand s = .next t ∧ t.port = s.port := by
  unfold completeCommand
  split
  · rename_i i _
    obtain ⟨u, code, hw, hu⟩ := exec_writes s i
    exact ⟨_, hu, hw.port_eq⟩
  · exact ⟨_, rfl, rfl⟩

/-- Settles O27: a step is a completion or the host's turn, and neither adds an operation to the port. -/
theorem neverStops : Obligations.NeverStops := by
  intro s h
  unfold step
  split
  · obtain ⟨t, ht, hport⟩ := completeCommand_next s
    exact ⟨t, ht, fun op hop => h op (hport ▸ hop)⟩
  · obtain ⟨t, ht, hport⟩ := hostTurn_inWindow h
    exact ⟨t, ht, fun op hop => h op (hport op hop)⟩

end Sys2Proof.Machine
end

section
/-! SUPPORT. The bits of a command word's fields (R121), and the masks of the formats: what `w & mask = OP` says of a word's fields
(R122). -/

namespace Sys2Proof

/-! ### A word and its fields -/

theorem testBit_bits (w : Word) (hi lo b : Nat) :
    (bits w hi lo).testBit b = (decide (b < hi + 1 - lo) && w.getLsbD (b + lo)) := by
  rw [bits, Nat.testBit_mod_two_pow, Nat.testBit_div_two_pow, BitVec.testBit_toNat]

/-- A field is zero exactly when each of its bits is. -/
theorem bits_eq_zero_iff (w : Word) (hi lo : Nat) :
    bits w hi lo = 0 ↔ ∀ b, lo ≤ b → b ≤ hi → w.getLsbD b = false := by
  constructor
  · intro h b hlo hhi
    have hbit := testBit_bits w hi lo (b - lo)
    rw [h, Nat.zero_testBit, decide_eq_true (by omega), Bool.true_and, Nat.sub_add_cancel hlo] at hbit
    exact hbit.symm
  · intro h
    refine Nat.zero_of_testBit_eq_false fun b => ?_
    rw [testBit_bits, Bool.and_eq_false_imp, decide_eq_true_eq]
    exact fun hb => h _ (by omega) (by omega)

/-- An opcode is a byte: it has no bit over bit 7 (R121). -/
theorem testBit_opcode_high {op b : Nat} (hop : op < 256) (hb : 8 ≤ b) : op.testBit b = false :=
  Nat.testBit_lt_two_pow (lt_of_lt_of_le hop (Nat.pow_le_pow_right (n := 2) (by decide) hb))

/-- OP is a word's low byte (R121). -/
theorem fieldOp_eq_iff (w : Word) {op : Nat} (hop : op < 256) :
    fieldOp w = op ↔ ∀ b < 8, w.getLsbD b = op.testBit b := by
  constructor
  · rintro rfl b hb
    simp [fieldOp, testBit_bits, hb]
  · intro h
    refine Nat.eq_of_testBit_eq fun b => ?_
    rw [fieldOp, testBit_bits]
    by_cases hb : b < 8
    · simp [hb, h b hb]
    · simp [hb, testBit_opcode_high hop (Nat.le_of_not_lt hb)]

/-! ### The masks (R122) -/

/-- The must-be-zero fields of a format, each by its highest and lowest bit. -/
def Format.zeroFields : Format → List (Nat × Nat)
  | .N => [(31, 8)]
  | .L => [(31, 26), (19, 8)]
  | .E3 => [(31, 20)]
  | .E2 => [(31, 16)]
  | .E2P => [(31, 16), (12, 12)]
  | .P3 => [(31, 20), (19, 19), (15, 15), (11, 11)]
  | .P2 => [(31, 16), (15, 15), (11, 11)]
  | .P1 => [(31, 16), (15, 15), (11, 8)]
  | .PS => [(31, 20), (15, 15), (11, 11)]

/-- Bit b lies in a must-be-zero field of the format. -/
def Format.mustBeZero (f : Format) (b : Nat) : Bool := f.zeroFields.any fun p => decide (p.2 ≤ b ∧ b ≤ p.1)

theorem Format.clear_iff_zeroFields (f : Format) (w : Word) :
    f.clear w = true ↔ ∀ p ∈ f.zeroFields, bits w p.1 p.2 = 0 := by
  cases f <;> simp [Format.clear, Format.zeroFields, and_assoc]

theorem Format.clear_iff (f : Format) (w : Word) :
    f.clear w = true ↔ ∀ b, f.mustBeZero b = true → w.getLsbD b = false := by
  simp only [Format.clear_iff_zeroFields, bits_eq_zero_iff, Format.mustBeZero, List.any_eq_true, decide_eq_true_eq]
  exact ⟨fun h b ⟨p, hp, hlo, hhi⟩ => h p hp b hlo hhi, fun h p hp b hlo hhi => h b ⟨p, hp, hlo, hhi⟩⟩

/-- The mask covers OP and the must-be-zero fields, and no bit of an operand. -/
theorem Format.getLsbD_mask (f : Format) : ∀ b < 32, f.mask.getLsbD b = (decide (b < 8) || f.mustBeZero b) := by
  cases f <;> decide

/-- The must-be-zero fields lie over OP, in the word. -/
theorem Format.mustBeZero_bounds (f : Format) {b : Nat} (h : f.mustBeZero b = true) : 8 ≤ b ∧ b < 32 := by
  obtain ⟨p, hp, hb⟩ := List.any_eq_true.mp h
  have hfield : ∀ p ∈ f.zeroFields, 8 ≤ p.2 ∧ p.1 < 32 := by cases f <;> decide
  have := hfield p hp
  have := of_decide_eq_true hb
  omega

/-- R122's `w & mask = OP` says that the word has that opcode and that its must-be-zero bits are zero. -/
theorem and_mask_eq_iff (w : Word) (f : Format) {op : Nat} (hop : op < 256) :
    w &&& f.mask = BitVec.ofNat 32 op ↔ fieldOp w = op ∧ f.clear w = true := by
  have hbit (b : Nat) (hb : b < 32) : (w &&& f.mask).getLsbD b = (BitVec.ofNat 32 op).getLsbD b
      ↔ (w.getLsbD b && (decide (b < 8) || f.mustBeZero b)) = op.testBit b := by
    rw [BitVec.getLsbD_and, f.getLsbD_mask b hb, BitVec.getLsbD_ofNat, decide_eq_true hb, Bool.true_and]
  rw [fieldOp_eq_iff w hop, f.clear_iff, BitVec.eq_of_getLsbD_eq_iff]
  constructor
  · intro h
    refine ⟨fun b hb => ?_, fun b hz => ?_⟩
    · simpa [hb] using (hbit b (by omega)).mp (h b (by omega))
    · obtain ⟨hlo, hhi⟩ := f.mustBeZero_bounds hz
      simpa [hz, testBit_opcode_high hop hlo] using (hbit b hhi).mp (h b hhi)
  · rintro ⟨hlow, hzero⟩ b hb
    rw [hbit b hb]
    by_cases hb8 : b < 8
    · simp [hb8, hlow b hb8]
    · cases hz : f.mustBeZero b with
      | false => simp [hb8, testBit_opcode_high hop (Nat.le_of_not_lt hb8)]
      | true => simp [hzero b hz, testBit_opcode_high hop (Nat.le_of_not_lt hb8)]

end Sys2Proof
end

section
/-! SUPPORT. What the decoder reads off a word and what the encoder writes into it, said once for the 26 rows of R126, and the
statements that follow from their agreement. -/

namespace Sys2Proof

open Machine (opcodeRows)

/-- The operand fields of the word hold the command's operands (R121 to R124). -/
def Instr.OperandsIn (w : Word) : Instr → Prop
  | .nop | .keyexp | .enc | .dec | .spnsb | .spnisb | .spnsr | .spnisr | .spnmc | .spnimc | .hinit | .hupd
  | .cfglock => True
  | .hfin len => fieldLen w = len
  | .gf8mul rd rs1 rs2 | .gfmadd rd rs1 rs2 | .gfmmul rd rs1 rs2 =>
    fieldRd w = rd ∧ fieldRs1 w = rs1 ∧ fieldRs2 w = rs2
  | .gf8inv rd rs1 | .gfmsqr rd rs1 | .gfminv rd rs1 | .gfmred rd rs1 => fieldRd w = rd ∧ fieldRs1 w = rs1
  | .padd pd ps1 ps2 => fieldPd w = pd ∧ fieldPs1 w = ps1 ∧ fieldPs2 w = ps2
  | .pdbl pd ps1 | .pneg pd ps1 => fieldPd w = pd ∧ fieldPs1 w = ps1
  | .pchk ps1 => fieldPs1 w = ps1
  | .smul pd ps1 rs2 => fieldPd w = pd ∧ fieldPs1 w = ps1 ∧ fieldRs2 w = rs2

/-! ### The encoder -/

/-- The word with the opcode `op`, the format's operand fields as in w, and every other bit zero (R121, R122). -/
def Format.operandWord (op : Nat) (w : Word) : Format → Word
  | .N => assemble op 0 0 0 0
  | .L => assemble op 0 0 0 (fieldLen w)
  | .E3 => assemble op (fieldRd w) (fieldRs1 w) (fieldRs2 w) 0
  | .E2 | .E2P => assemble op (fieldRd w) (fieldRs1 w) 0 0
  | .P3 => assemble op (fieldPd w) (fieldPs1 w) (fieldPs2 w) 0
  | .P2 => assemble op (fieldPd w) (fieldPs1 w) 0 0
  | .P1 => assemble op 0 (fieldPs1 w) 0 0
  | .PS => assemble op (fieldPd w) (fieldPs1 w) (fieldRs2 w) 0

/-- OP, the operands and the must-be-zero bits are the whole word. -/
theorem Format.operandWord_of_clear {f : Format} {w : Word} (h : f.clear w = true) :
    f.operandWord (fieldOp w) w = w := by
  have hw := w.isLt
  apply BitVec.eq_of_toNat_eq
  cases f
  all_goals
    simp only [Format.clear, bits, Bool.and_eq_true, beq_iff_eq, Nat.reducePow, Nat.reduceAdd, Nat.reduceSub] at h
    simp only [Format.operandWord, assemble, BitVec.toNat_ofNat, fieldOp, fieldRd, fieldRs1, fieldRs2, fieldPd,
      fieldPs1, fieldPs2, fieldLen, bits, Fin.val_ofNat, Nat.reducePow, Nat.reduceAdd, Nat.reduceSub]
    omega

/-- The encoder writes the opcode and the operands, and nothing else (R130). -/
theorem encode_eq_operandWord {i : Instr} {w : Word} (h : i.OperandsIn w) :
    encode i = i.format.operandWord i.opcode w := by
  cases i
  case gf8mul | gfmadd | gfmmul | padd | smul => all_goals obtain ⟨rfl, rfl, rfl⟩ := h; rfl
  case gf8inv | gfmsqr | gfminv | gfmred | pdbl | pneg => all_goals obtain ⟨rfl, rfl⟩ := h; rfl
  case hfin | pchk => all_goals subst h; rfl
  all_goals rfl

/-- The fields of an assembled word do not overlap, so the operands stand in the word (R130). -/
theorem operandsIn_encode (i : Instr) : i.OperandsIn (encode i) := by
  cases i
  case nop | keyexp | enc | dec | spnsb | spnisb | spnsr | spnisr | spnmc | spnimc | hinit | hupd | cfglock =>
    all_goals trivial
  all_goals
    simp only [encode, assemble, Instr.OperandsIn, fieldRd, fieldRs1, fieldRs2, fieldPd, fieldPs1, fieldPs2, fieldLen,
      bits, BitVec.toNat_ofNat, Fin.ext_iff, Fin.val_ofNat, Nat.reducePow, Nat.reduceAdd, Nat.reduceSub]
    omega

/-- The encoding of a well-formed command stands in the command's row (R122). -/
theorem encodeInRow (i : Instr) : Laws.EncodeInRow.Statement i := by
  cases i
  exacts [Laws.EncodeInRow.nop, Laws.EncodeInRow.gf8mul _ _ _, Laws.EncodeInRow.gf8inv _ _,
    Laws.EncodeInRow.gfmadd _ _ _, Laws.EncodeInRow.gfmmul _ _ _, Laws.EncodeInRow.gfmsqr _ _,
    Laws.EncodeInRow.gfminv _ _, Laws.EncodeInRow.gfmred _ _, Laws.EncodeInRow.keyexp, Laws.EncodeInRow.enc,
    Laws.EncodeInRow.dec, Laws.EncodeInRow.spnsb, Laws.EncodeInRow.spnisb, Laws.EncodeInRow.spnsr,
    Laws.EncodeInRow.spnisr, Laws.EncodeInRow.spnmc, Laws.EncodeInRow.spnimc, Laws.EncodeInRow.hinit,
    Laws.EncodeInRow.hupd, Laws.EncodeInRow.hfin _, Laws.EncodeInRow.padd _ _ _, Laws.EncodeInRow.pdbl _ _,
    Laws.EncodeInRow.pneg _ _, Laws.EncodeInRow.pchk _, Laws.EncodeInRow.smul _ _ _, Laws.EncodeInRow.cfglock]

/-! ### The decoder -/

theorem decodeAs_eq_ok_iff {w : Word} {f : Format} {i j : Instr} :
    decodeAs w f j = .ok i ↔ f.clear w = true ∧ j = i := by
  unfold decodeAs
  split <;> simp [*]

/-- At a command's opcode the decoder reads the operand fields and checks the format's must-be-zero bits (R126). -/
theorem decode_eq_decodeAs {i : Instr} {w : Word} (hop : fieldOp w = i.opcode) (h : i.OperandsIn w) :
    decode w = decodeAs w i.format i := by
  unfold decode
  rw [hop]
  cases i
  case gf8mul | gfmadd | gfmmul | padd | smul => all_goals obtain ⟨rfl, rfl, rfl⟩ := h; rfl
  case gf8inv | gfmsqr | gfminv | gfmred | pdbl | pneg => all_goals obtain ⟨rfl, rfl⟩ := h; rfl
  case hfin | pchk => all_goals subst h; rfl
  all_goals rfl

/-- Every word has the opcode of a row, and is read as that row's command with the operands that stand in it, or an opcode of no
row (R126, R128). -/
theorem decode_cases (w : Word) :
    (∃ f i, decode w = decodeAs w f i ∧ i.format = f ∧ fieldOp w = i.opcode ∧ i.OperandsIn w)
      ∨ (∀ row ∈ opcodeRows, fieldOp w ≠ row.1) ∧ ∃ why, decode w = .error why := by
  unfold decode
  split
  case h_27 => exact .inr ⟨by simp only [opcodeRows, List.forall_mem_cons, List.not_mem_nil]; tauto, _, rfl⟩
  all_goals exact .inl ⟨_, _, rfl, rfl, ‹_›, by simp only [Instr.OperandsIn, and_self]⟩

/-- A word decodes to a command exactly when it has the command's opcode and operands, with the must-be-zero bits of its format
zero (R126, R128). -/
theorem decode_eq_ok_iff {w : Word} {i : Instr} :
    decode w = .ok i ↔ fieldOp w = i.opcode ∧ i.format.clear w = true ∧ i.OperandsIn w := by
  constructor
  · intro h
    rcases decode_cases w with ⟨f, j, hdec, rfl, hop, hin⟩ | ⟨-, why, herr⟩
    · obtain ⟨hclear, rfl⟩ := decodeAs_eq_ok_iff.mp (hdec.symm.trans h)
      exact ⟨hop, hclear, hin⟩
    · cases herr.symm.trans h
  · rintro ⟨hop, hclear, hin⟩
    rw [decode_eq_decodeAs hop hin]
    exact decodeAs_eq_ok_iff.mpr ⟨hclear, rfl⟩

/-! ### The rows of the opcode table -/

theorem mem_opcodeRows (i : Instr) : (i.opcode, i.format) ∈ opcodeRows := by
  cases i <;> simp [Instr.opcode, Instr.format, opcodeRows]

theorem opcodeRows_opcode_lt : ∀ row ∈ opcodeRows, row.1 < 256 := by decide

/-- No opcode stands in two rows. -/
theorem eq_of_opcode_eq : ∀ row ∈ opcodeRows, ∀ row' ∈ opcodeRows, row.1 = row'.1 → row = row' := by decide

theorem opcode_lt (i : Instr) : i.opcode < 256 := opcodeRows_opcode_lt _ (mem_opcodeRows i)

/-- E2P's must-be-zero bit 12 is what makes the source of a pair even; no other format bounds an operand further (R122,
R163). -/
theorem wf_of_clear {i : Instr} {w : Word} (hclear : i.format.clear w = true) (h : i.OperandsIn w) : i.wf = true := by
  cases i
  case gfmred rd rs1 =>
    obtain ⟨-, rfl⟩ := h
    simp only [Instr.format, Format.clear, bits, Bool.and_eq_true, beq_iff_eq] at hclear
    simp only [Instr.wf, evenReg, fieldRs1, bits, Fin.val_ofNat, beq_iff_eq]
    omega
  all_goals rfl

/-- The encoding has the command's opcode, and its must-be-zero bits are zero. -/
theorem encode_opcode_clear {i : Instr} (h : i.wf = true) :
    fieldOp (encode i) = i.opcode ∧ i.format.clear (encode i) = true :=
  (and_mask_eq_iff _ _ (opcode_lt i)).mp (encodeInRow i h)

/-! ### The statements -/

/-- Settles O1: the encoding stands in the command's row (R122), and its operand fields hold the command's operands. -/
theorem decodeEncode : Obligations.DecodeEncode := by
  intro i h
  obtain ⟨hop, hclear⟩ := encode_opcode_clear h
  exact decode_eq_ok_iff.mpr ⟨hop, hclear, operandsIn_encode i⟩

/-- Settles O2: OP, the operands and the must-be-zero bits are the whole word. -/
theorem encodeDecode : Obligations.EncodeDecode := by
  intro w i h
  obtain ⟨hop, hclear, hin⟩ := decode_eq_ok_iff.mp h
  refine ⟨wf_of_clear hclear hin, ?_⟩
  rw [encode_eq_operandWord hin, ← hop, Format.operandWord_of_clear hclear]

/-- Settles O3: a row's mask pins the opcode and the must-be-zero bits, which is what the decoder checks. -/
theorem decodeMatchesRows : Obligations.DecodeMatchesRows := by
  intro w row hrow
  rw [and_mask_eq_iff w row.2 (opcodeRows_opcode_lt row hrow)]
  constructor
  · rintro ⟨i, hdec, hop, hf⟩
    obtain ⟨hop', hclear, -⟩ := decode_eq_ok_iff.mp hdec
    exact ⟨hop'.trans hop, hf ▸ hclear⟩
  · rintro ⟨hop, hclear⟩
    rcases decode_cases w with ⟨f, i, hdec, rfl, hopi, -⟩ | ⟨hnone, -⟩
    · obtain rfl := eq_of_opcode_eq _ hrow _ (mem_opcodeRows i) (hop.symm.trans hopi)
      exact ⟨i, hdec.trans (decodeAs_eq_ok_iff.mpr ⟨hclear, rfl⟩), rfl, rfl⟩
    · exact absurd hop (hnone row hrow)

/-- Settles O4: a word that decodes matches its command's row and, by O3, no other; one that does not decode matches
none. -/
theorem decodeTotal : Obligations.DecodeTotal := by
  intro w
  cases hdec : decode w with
  | ok i =>
    refine .inl ⟨⟨(i.opcode, i.format), ⟨mem_opcodeRows i, ?_⟩, ?_⟩, i, rfl⟩
    · exact (decodeMatchesRows w _ (mem_opcodeRows i)).mp ⟨i, hdec, rfl, rfl⟩
    · rintro row ⟨hrow, hmask⟩
      obtain ⟨j, hj, hop, hf⟩ := (decodeMatchesRows w row hrow).mpr hmask
      cases hj.symm.trans hdec
      exact Prod.ext hop.symm hf.symm
  | error why =>
    refine .inr ⟨fun row hrow hmask => ?_, why, rfl⟩
    obtain ⟨j, hj, -⟩ := (decodeMatchesRows w row hrow).mpr hmask
    cases hj.symm.trans hdec

/-- Settles O6: each word is the encoding of its command, or has a bit or an opcode that no row allows. -/
theorem sampleWords : Obligations.SampleWords := by
  unfold Obligations.SampleWords
  decide

end Sys2Proof
end

section
/-! SUPPORT. The life of an illegal word, and commands with the same result; and the statements on them. -/

namespace Sys2Proof.Machine

/-! ### Illegal words (R128) -/

theorem decode_error_of_no_row {w : Word} (h : ∀ row ∈ opcodeRows, w &&& row.2.mask ≠ BitVec.ofNat 32 row.1) :
    ∃ why, decode w = .error why := by
  rcases decodeTotal w with ⟨⟨row, ⟨hrow, hmask⟩, -⟩, -⟩ | ⟨-, hwhy⟩
  · exact absurd hmask (h row hrow)
  · exact hwhy

/-- Settles O5: acceptance does not look at the word, and the completion step finds no command in it. -/
theorem illegalWord : Obligations.IllegalWord := by
  intro w h
  obtain ⟨why, hwhy⟩ := decode_error_of_no_row h
  refine ⟨fun s rest hb hp => ?_, fun s hm hw => ?_⟩
  · have hacc : (s.take rest).writeReg (windowReg 0x010) w = (s.take rest).accept w :=
      ifIdle_of_idle (s.take rest) hb _
    refine ⟨_, step_write s (.inl hb) (by decide) (by decide) hp, ?_⟩
    rw [hacc]
    exact ⟨rfl, rfl⟩
  · rw [step_of_coreMoves s hm, completeCommand, hw, hwhy]
    exact congrArg _ (raise_eq_failed s (by decide))

/-! ### Commands with the same result (R127) -/

/-- A source named twice is checked no further. -/
theorem gfChecks_pair_self (s : State) (r : EReg) : gfChecks s [r, r] = gfChecks s [r] := by
  simp [gfChecks]

theorem pointChecks_pair_self (s : State) (k : PReg) : pointChecks s [k, k] = pointChecks s [k] := by
  unfold pointChecks
  cases h : pointCheck s k <;> simp [h]

/-- A point added to itself is doubled (R306). -/
theorem addPoint_self (f a : Elem) (p : Point) : addPoint f a p p = dblPoint f a p := by
  cases p with
  | infinity => rfl
  | affine x y => exact if_pos ⟨rfl, rfl⟩

theorem exec_gfmsqr_eq (s : State) (rd rs1 : EReg) : exec (.gfmsqr rd rs1) s = exec (.gfmmul rd rs1 rs1) s := by
  simp only [exec, execGfmsqr, execGfmmul, gfChecks_pair_self, sqrMod]

theorem exec_pdbl_eq (s : State) (pd ps1 : PReg) : exec (.pdbl pd ps1) s = exec (.padd pd ps1 ps1) s := by
  simp only [exec, execPdbl, execPadd, pointChecks_pair_self, addPoint_self]

/-- The opcode is in the word, so commands of different opcodes have different words. -/
theorem encode_ne_of_opcode_ne {i j : Instr} (hi : i.wf = true) (hj : j.wf = true) (h : i.opcode ≠ j.opcode) :
    encode i ≠ encode j := by
  intro he
  apply h
  rw [← (encode_opcode_clear hi).1, ← (encode_opcode_clear hj).1, he]

/-- Settles O37: the checks and the results agree on equal sources, and the opcodes differ. -/
theorem sameResultCommands : Obligations.SameResultCommands :=
  ⟨exec_gfmsqr_eq, exec_pdbl_eq, fun _ _ _ _ _ => encode_ne_of_opcode_ne rfl rfl (by simp [Instr.opcode]),
    fun _ _ _ _ _ => encode_ne_of_opcode_ne rfl rfl (by simp [Instr.opcode])⟩

end Sys2Proof.Machine
end

section
/-! SUPPORT. The statement on the WAIT loop (R131). -/

namespace Sys2Proof.Machine

/-- Settles O28: bit 0 of STATUS is BUSY (R47), and WAIT stays at the port while it is 1. -/
theorem waitLoop : Obligations.WaitLoop := by
  intro s rest hm hp
  constructor
  · rw [show windowReg 0x00C = .status from rfl, State.readReg, getLsbD_statusWord s (by decide), if_pos rfl]
  · rw [step_of_hostMoves s hm (by simp [hp]), hostTurn, hp]
    rfl

end Sys2Proof.Machine
end

section
/-! SUPPORT. The polynomial over GF(2) that a number stands for (R12): XOR is its sum and `clmul` its product, so the ring laws of
`clmul` and the degree of a product are those of polynomials. -/

namespace Sys2Proof.Machine

/-- The polynomial of R12: "the coefficient of x^i is bit i". -/
noncomputable def toPoly (v : Nat) : Polynomial (ZMod 2) :=
  ∑ i ∈ Finset.range (bitlen v), if v.testBit i then Polynomial.X ^ i else 0

/-! ### The model's operations as those of polynomials -/

theorem testBit_of_bitlen_le {v i : Nat} (h : bitlen v ≤ i) : v.testBit i = false :=
  Nat.testBit_lt_two_pow (lt_of_lt_of_le (lt_two_pow_bitlen v) (Nat.pow_le_pow_right (by omega) h))

theorem coeff_toPoly (v i : Nat) : (toPoly v).coeff i = if v.testBit i then 1 else 0 := by
  have hterm (j : Nat) : (if v.testBit j then (Polynomial.X ^ j : Polynomial (ZMod 2)) else 0).coeff i
      = if i = j then if v.testBit i then 1 else 0 else 0 := by
    by_cases hij : i = j
    · subst hij
      cases v.testBit i <;> simp
    · cases v.testBit j <;> simp [Polynomial.coeff_X_pow, hij]
  rw [toPoly, Polynomial.finsetSum_coeff, Finset.sum_congr rfl fun j _ => hterm j, Finset.sum_ite_eq]
  by_cases hi : i < bitlen v
  · simp [hi]
  · simp [hi, testBit_of_bitlen_le (Nat.le_of_not_lt hi)]

theorem toPoly_injective : Function.Injective toPoly := by
  intro a b h
  apply Nat.eq_of_testBit_eq
  intro i
  have hi := congrArg (·.coeff i) h
  simp only [coeff_toPoly] at hi
  revert hi
  cases a.testBit i <;> cases b.testBit i <;> decide

@[simp] theorem toPoly_zero : toPoly 0 = 0 := by
  ext i
  simp [coeff_toPoly]

@[simp] theorem toPoly_one : toPoly 1 = 1 := by
  ext i
  rw [coeff_toPoly, Polynomial.coeff_one]
  exact if_congr Nat.testBit_one_eq_true_iff_self_eq_zero rfl rfl

theorem toPoly_xor (a b : Nat) : toPoly (a ^^^ b) = toPoly a + toPoly b := by
  ext i
  rw [Polynomial.coeff_add, coeff_toPoly, coeff_toPoly, coeff_toPoly, Nat.testBit_xor]
  cases a.testBit i <;> cases b.testBit i <;> decide

theorem toPoly_shiftLeft (a n : Nat) : toPoly (a <<< n) = toPoly a * Polynomial.X ^ n := by
  ext i
  rw [Polynomial.coeff_mul_X_pow', coeff_toPoly, coeff_toPoly, Nat.testBit_shiftLeft]
  by_cases h : n ≤ i <;> simp [h]

theorem toPoly_clmulUpTo (a b n : Nat) :
    toPoly (clmulUpTo a b n) = toPoly a * ∑ i ∈ Finset.range n, if b.testBit i then Polynomial.X ^ i else 0 := by
  induction n with
  | zero => simp [clmulUpTo]
  | succ n ih =>
    rw [clmulUpTo, toPoly_xor, ih, Finset.sum_range_succ, mul_add]
    cases b.testBit n <;> simp [toPoly_shiftLeft]

/-- R12: the carry-less product is the product of the polynomials. -/
theorem toPoly_clmul (a b : Nat) : toPoly (clmul a b) = toPoly a * toPoly b := toPoly_clmulUpTo a b (bitlen b)

/-- The bits below n are the coefficients below degree n. -/
theorem degree_toPoly_lt_iff (v n : Nat) : (toPoly v).degree < n ↔ v < 2 ^ n := by
  rw [Polynomial.degree_lt_iff_coeff_zero]
  constructor
  · intro h
    apply Nat.lt_pow_two_of_testBit
    intro i hi
    simpa [coeff_toPoly] using h i hi
  · intro h i hi
    simp [coeff_toPoly, Nat.testBit_lt_two_pow (lt_of_lt_of_le h (Nat.pow_le_pow_right (by omega) hi))]

/-! ### The ring laws of the product -/

theorem clmul_comm (a b : Nat) : clmul a b = clmul b a :=
  toPoly_injective <| by rw [toPoly_clmul, toPoly_clmul, mul_comm]

theorem clmul_assoc (a b c : Nat) : clmul (clmul a b) c = clmul a (clmul b c) :=
  toPoly_injective <| by simp only [toPoly_clmul, mul_assoc]

theorem clmul_xor_right (a b c : Nat) : clmul a (b ^^^ c) = clmul a b ^^^ clmul a c := by
  rw [clmul_comm, clmul_xor_left, clmul_comm b, clmul_comm c]

@[simp] theorem clmul_one_left (a : Nat) : clmul 1 a = a :=
  toPoly_injective <| by simp [toPoly_clmul]

@[simp] theorem clmul_zero_right (a : Nat) : clmul a 0 = 0 := by rw [clmul_comm, clmul_zero_left]

theorem clmul_shiftLeft_left (a b n : Nat) : clmul (a <<< n) b = clmul a b <<< n :=
  toPoly_injective <| by rw [toPoly_clmul, toPoly_shiftLeft, toPoly_shiftLeft, toPoly_clmul, mul_right_comm]

/-- A multiple of f other than 0 has at least f's degree. -/
theorem eq_zero_of_clmul_lt {q f : Nat} (hf : f ≠ 0) (h : clmul q f < 2 ^ f.log2) : q = 0 := by
  by_contra hq
  have hq' : toPoly q ≠ 0 := toPoly_zero ▸ toPoly_injective.ne hq
  have hdeg : (toPoly f).degree < f.log2 := calc
    (toPoly f).degree ≤ (toPoly f * toPoly q).degree := Polynomial.degree_le_mul_left _ hq'
    _ = (toPoly (clmul q f)).degree := by rw [toPoly_clmul, mul_comm]
    _ < f.log2 := (degree_toPoly_lt_iff _ _).mpr h
  have hlt : f < 2 ^ f.log2 := (degree_toPoly_lt_iff _ _).mp hdeg
  exact absurd hlt (Nat.not_lt.mpr (Nat.log2_self_le hf))

/-- The only divisor of 1 is 1. -/
theorem eq_one_of_clmul_eq_one {q f : Nat} (h : clmul q f = 1) : f = 1 := by
  have hf : f ≠ 0 := by
    rintro rfl
    simp at h
  have hq : q ≠ 0 := by
    rintro rfl
    simp at h
  have hlog : f.log2 = 0 := by
    by_contra hlog
    exact hq (eq_zero_of_clmul_lt hf (h ▸ Nat.one_lt_two_pow hlog))
  have hlt : f < 2 ^ (f.log2 + 1) := Nat.lt_log2_self
  rw [hlog] at hlt
  omega

end Sys2Proof.Machine
end

section
/-! SUPPORT. Congruence modulo f as an equivalence that sum and product keep; the reduction `pmod` as its choice of a value; and
inverses modulo f (R12, R162) -/

namespace Sys2Proof.Machine

/-! ### Congruence modulo f -/

namespace Congruent

variable {f a b c d : Nat}

theorem of_eq (h : a = b) : Congruent f a b := h ▸ .refl f a

theorem xor (h : Congruent f a b) (h' : Congruent f c d) : Congruent f (a ^^^ c) (b ^^^ d) := by
  obtain ⟨q, hq⟩ := h
  obtain ⟨r, hr⟩ := h'
  refine ⟨q ^^^ r, ?_⟩
  rw [clmul_xor_left, ← hq, ← hr]
  ac_rfl

theorem mul_right (h : Congruent f a b) (c : Nat) : Congruent f (clmul a c) (clmul b c) := by
  obtain ⟨q, hq⟩ := h
  refine ⟨clmul q c, ?_⟩
  rw [← clmul_xor_left, hq, clmul_assoc, clmul_comm f, ← clmul_assoc]

theorem mul_left (h : Congruent f a b) (c : Nat) : Congruent f (clmul c a) (clmul c b) := by
  rw [clmul_comm c, clmul_comm c]
  exact h.mul_right c

theorem shiftLeft (h : Congruent f a b) (n : Nat) : Congruent f (a <<< n) (b <<< n) := by
  rw [← clmul_two_pow_left, ← clmul_two_pow_left]
  exact h.mul_left (2 ^ n)

/-- Each class has at most one value of a degree below f's. -/
theorem eq_of_lt (h : Congruent f a b) (hf : f ≠ 0) (ha : a < 2 ^ f.log2) (hb : b < 2 ^ f.log2) : a = b := by
  obtain ⟨q, hq⟩ := h
  have hq0 : q = 0 := eq_zero_of_clmul_lt hf (hq ▸ Nat.xor_lt_two_pow ha hb)
  rw [hq0, clmul_zero_left] at hq
  exact Nat.xor_eq_zero_iff.mp hq

end Congruent

/-! ### The reduction -/

section
variable {f : Nat}

/-- R12: `pmod(v, f)` is the one value congruent to v modulo f of a degree below f's. -/
theorem pmod_eq_iff (hf : f ≠ 0) {v r : Nat} : pmod v f = r ↔ r < 2 ^ f.log2 ∧ Congruent f v r := by
  obtain ⟨hlt, hcong⟩ := pmod_spec v f hf
  constructor
  · rintro rfl
    exact ⟨hlt, hcong⟩
  · rintro ⟨hr, hvr⟩
    exact (hcong.symm.trans hvr).eq_of_lt hf hlt hr

theorem pmod_eq_pmod_iff (hf : f ≠ 0) {v w : Nat} : pmod v f = pmod w f ↔ Congruent f v w := by
  obtain ⟨hlt, hcong⟩ := pmod_spec w f hf
  rw [pmod_eq_iff hf]
  exact ⟨fun h => h.2.trans hcong.symm, fun h => ⟨hlt, h.trans hcong⟩⟩

theorem pmod_of_lt (hf : f ≠ 0) {v : Nat} (hv : v < 2 ^ f.log2) : pmod v f = v :=
  (pmod_eq_iff hf).mpr ⟨hv, .refl f v⟩

theorem pmod_xor (hf : f ≠ 0) (v w : Nat) : pmod (v ^^^ w) f = pmod v f ^^^ pmod w f := by
  obtain ⟨hv, hcv⟩ := pmod_spec v f hf
  obtain ⟨hw, hcw⟩ := pmod_spec w f hf
  exact (pmod_eq_iff hf).mpr ⟨Nat.xor_lt_two_pow hv hw, hcv.xor hcw⟩

/-- A factor may be reduced before the product is. -/
theorem pmod_clmul_pmod_left (hf : f ≠ 0) (v w : Nat) : pmod (clmul (pmod v f) w) f = pmod (clmul v w) f :=
  (pmod_eq_pmod_iff hf).mpr ((pmod_spec v f hf).2.symm.mul_right w)

theorem pmod_clmul_pmod_right (hf : f ≠ 0) (v w : Nat) : pmod (clmul v (pmod w f)) f = pmod (clmul v w) f :=
  (pmod_eq_pmod_iff hf).mpr ((pmod_spec w f hf).2.symm.mul_left v)

end

/-! ### Inverses -/

namespace Inverse

variable {f a r r' : Nat}

theorem symm (h : Inverse f a r) : Inverse f r a := by
  rw [Inverse, clmul_comm]
  exact h

/-- R162: two inverses of one value are congruent. -/
theorem congruent (h : Inverse f a r) (h' : Inverse f a r') : Congruent f r r' := by
  have hleft : Congruent f (clmul r (clmul a r')) r := by
    rw [clmul_comm]
    exact (Congruent.mul_right h' r).trans (.of_eq (clmul_one_left r))
  have hright : Congruent f (clmul r (clmul a r')) r' := by
    rw [← clmul_assoc]
    exact (Congruent.mul_right h.symm r').trans (.of_eq (clmul_one_left r'))
  exact hleft.symm.trans hright

/-- 0 has no inverse modulo an f of degree at least 1. -/
theorem ne_zero (h : Inverse f a r) (hf : f.log2 ≠ 0) : a ≠ 0 := by
  rintro rfl
  have hf0 : f ≠ 0 := by
    rintro rfl
    exact hf rfl
  have h01 : Congruent f 0 1 := by simpa [Inverse] using h
  exact absurd (h01.eq_of_lt hf0 (by positivity) (Nat.one_lt_two_pow hf)) (by omega)

end Inverse

end Sys2Proof.Machine
end

section
/-! SUPPORT. Euclid's algorithm: its fuel is enough, its result is the greatest common divisor, and `pinv` is the inverse wherever
there is one (R12, R160) -/

namespace Sys2Proof.Machine

/-! ### Lengths: each round makes the pair shorter -/

theorem bitlen_of_ne_zero {v : Nat} (h : v ≠ 0) : bitlen v = v.log2 + 1 := if_neg h

theorem bitlen_le_iff (v n : Nat) : bitlen v ≤ n ↔ v < 2 ^ n := by
  by_cases hv : v = 0
  · simp [hv, bitlen]
  · rw [bitlen_of_ne_zero hv, Nat.succ_le_iff, Nat.log2_lt hv]

/-- Two values that agree in their top bit have a shorter sum. -/
theorem xor_lt_of_testBit_eq {a b n : Nat} (ha : a < 2 ^ (n + 1)) (hb : b < 2 ^ (n + 1))
    (h : a.testBit n = b.testBit n) : a ^^^ b < 2 ^ n :=
  lt_of_testBit_false (Nat.xor_lt_two_pow ha hb) (by simp [h])

/-- A round of Euclid's algorithm makes the longer value shorter. -/
theorem bitlen_xor_shift_lt {r0 r1 : Nat} (h1 : r1 ≠ 0) (h : ¬bitlen r0 < bitlen r1) :
    bitlen (r0 ^^^ (r1 <<< (bitlen r0 - bitlen r1))) < bitlen r0 := by
  have h0 : r0 ≠ 0 := by
    rintro rfl
    simp [bitlen, h1] at h
  rw [bitlen_of_ne_zero h0, bitlen_of_ne_zero h1] at *
  obtain ⟨k, hk⟩ : ∃ k, r0.log2 = r1.log2 + k := ⟨r0.log2 - r1.log2, by omega⟩
  rw [show r0.log2 + 1 - (r1.log2 + 1) = k by omega, Nat.lt_succ_iff, bitlen_le_iff]
  apply xor_lt_of_testBit_eq Nat.lt_log2_self
  · rw [hk, show r1.log2 + k + 1 = r1.log2 + 1 + k by omega]
    exact Nat.shiftLeft_lt Nat.lt_log2_self
  · rw [Nat.testBit_log2 h0, Nat.testBit_shiftLeft, hk, Nat.add_sub_cancel, Nat.testBit_log2 h1]
    simp

/-! ### The loop and its result -/

section
variable {f a : Nat}

/-- Throughout Euclid's algorithm the cofactors give the values: t0 times a is r0, and t1 times a is r1, modulo f. -/
theorem pgcdFrom_cofactor (n : Nat) {r0 t0 r1 t1 : Nat} (h0 : Congruent f (clmul t0 a) r0)
    (h1 : Congruent f (clmul t1 a) r1) :
    Congruent f (clmul (pgcdFrom n r0 t0 r1 t1).2 a) (pgcdFrom n r0 t0 r1 t1).1 := by
  induction n generalizing r0 t0 r1 t1 with
  | zero => exact h0
  | succ n ih =>
    rw [pgcdFrom]
    split
    · exact h0
    · split
      · exact ih h1 h0
      · refine ih ?_ h1
        rw [clmul_xor_left, clmul_shiftLeft_left]
        exact h0.xor (h1.shiftLeft _)

/-- The rounds that Euclid's algorithm has left, at most: a swap, and two per bit. -/
def euclidRounds (r0 r1 : Nat) : Nat := 2 * (bitlen r0 + bitlen r1) + if bitlen r0 < bitlen r1 then 1 else 0

/-- With enough fuel the result divides both values; g divides r where r is congruent to 0 modulo g. -/
theorem pgcdFrom_dvd (n : Nat) {r0 t0 r1 t1 : Nat} (hn : euclidRounds r0 r1 < n) :
    Congruent (pgcdFrom n r0 t0 r1 t1).1 r0 0 ∧ Congruent (pgcdFrom n r0 t0 r1 t1).1 r1 0 := by
  induction n generalizing r0 t0 r1 t1 with
  | zero => omega
  | succ n ih =>
    rw [pgcdFrom]
    split
    next h1 => exact ⟨⟨1, by simp⟩, .of_eq h1⟩
    next h1 =>
      split
      next hlt =>
        have hswap : euclidRounds r1 r0 < n := by
          rw [euclidRounds, if_pos hlt] at hn
          rw [euclidRounds, if_neg (by omega)]
          omega
        exact (ih hswap).symm
      next hge =>
        have hround := bitlen_xor_shift_lt h1 hge
        have hless : euclidRounds (r0 ^^^ (r1 <<< (bitlen r0 - bitlen r1))) r1 < n := by
          rw [euclidRounds, if_neg hge] at hn
          unfold euclidRounds
          split <;> omega
        obtain ⟨hsum, hr1⟩ := ih (t0 := t0 ^^^ (t1 <<< (bitlen r0 - bitlen r1))) (t1 := t1) hless
        refine ⟨?_, hr1⟩
        simpa [Nat.xor_assoc] using hsum.xor (hr1.shiftLeft (bitlen r0 - bitlen r1))

/-- Euclid's cofactor times a is the greatest common divisor, modulo f (R12). -/
theorem pgcdCofactor_spec (a f : Nat) : Congruent f (clmul (pgcdCofactor a f).2 a) (pgcd a f) :=
  pgcdFrom_cofactor _ ⟨1, by simp⟩ (.of_eq (clmul_one_left a))

/-- The greatest common divisor divides f and a. -/
theorem pgcd_dvd (a f : Nat) : Congruent (pgcd a f) f 0 ∧ Congruent (pgcd a f) a 0 := by
  apply pgcdFrom_dvd
  unfold euclidRounds
  split <;> omega

/-- A value with an inverse modulo f has no common divisor with f but 1. -/
theorem pgcd_eq_one {r : Nat} (h : Inverse f a r) : pgcd a f = 1 := by
  obtain ⟨hf, ha⟩ := pgcd_dvd a f
  obtain ⟨q, hq⟩ := h
  have hprod : Congruent (pgcd a f) (clmul a r) 0 := by simpa using ha.mul_right r
  have hmultiple : Congruent (pgcd a f) (clmul a r ^^^ 1) 0 := by simpa [hq] using hf.mul_left q
  have hone : Congruent (pgcd a f) 1 0 := by
    simpa [← Nat.xor_assoc] using hprod.xor hmultiple
  obtain ⟨p, hp⟩ := hone
  exact eq_one_of_clmul_eq_one (hp.symm.trans (Nat.xor_zero 1))

/-- R12: `pinv(a, f)` is a's inverse modulo f of a degree below f's, wherever there is one. -/
theorem pinv_eq_some_iff (hf : f ≠ 0) {r : Nat} : pinv a f = some r ↔ r < 2 ^ f.log2 ∧ Inverse f a r := by
  have hspec : pgcd a f = 1 → pmod (pgcdCofactor a f).2 f < 2 ^ f.log2 ∧ Inverse f a (pmod (pgcdCofactor a f).2 f) := by
    intro hg
    obtain ⟨hlt, hcong⟩ := pmod_spec (pgcdCofactor a f).2 f hf
    have hinv : Inverse f (pgcdCofactor a f).2 a := (pgcdCofactor_spec a f).trans (.of_eq hg)
    exact ⟨hlt, (hcong.symm.mul_left a).trans hinv.symm⟩
  constructor
  · intro h
    unfold pinv at h
    split at h
    next hg => exact Option.some.inj h ▸ hspec hg
    next => cases h
  · rintro ⟨hr, hinv⟩
    have hg := pgcd_eq_one hinv
    obtain ⟨hlt, hinv'⟩ := hspec hg
    rw [pinv, if_pos hg, (hinv'.congruent hinv).eq_of_lt hf hlt hr]

theorem pinv_eq_none_iff (hf : f ≠ 0) : pinv a f = none ↔ ∀ r < 2 ^ f.log2, ¬Inverse f a r := by
  simp only [Option.eq_none_iff_forall_ne_some, ne_eq, pinv_eq_some_iff hf, not_and]

end

end Sys2Proof.Machine
end

section
/-! SUPPORT. What the GF(2^8) functions compute (R13, R152), and the statements on GF8MUL and GF8INV. -/

namespace Sys2Proof.Machine

/-! ### The field GF(2^8) -/

theorem p8_ne_zero : p8 ≠ 0 := by decide

theorem log2_p8 : p8.log2 = 8 := by decide

theorem toNat_lt_two_pow_log2_p8 (a : Byte) : a.toNat < 2 ^ p8.log2 := by
  rw [log2_p8]
  exact a.isLt

/-- The result of `gf8mul` is the reduced product, which a byte holds (R13). -/
theorem toNat_gf8mul (a b : Byte) : (gf8mul a b).toNat = pmod (clmul a.toNat b.toNat) p8 := by
  have hlt := (pmod_spec (clmul a.toNat b.toNat) p8 p8_ne_zero).1
  rw [log2_p8] at hlt
  exact Nat.mod_eq_of_lt hlt

theorem gf8mul_congruent (a b : Byte) : Congruent p8 (clmul a.toNat b.toNat) (gf8mul a b).toNat :=
  toNat_gf8mul a b ▸ (pmod_spec _ p8 p8_ne_zero).2

theorem gf8mul_comm (a b : Byte) : gf8mul a b = gf8mul b a := by rw [gf8mul, gf8mul, clmul_comm]

theorem gf8mul_assoc (a b c : Byte) : gf8mul (gf8mul a b) c = gf8mul a (gf8mul b c) := by
  apply BitVec.eq_of_toNat_eq
  simp only [toNat_gf8mul, pmod_clmul_pmod_left p8_ne_zero, pmod_clmul_pmod_right p8_ne_zero, clmul_assoc]

theorem gf8mul_xor (a b c : Byte) : gf8mul a (b ^^^ c) = gf8mul a b ^^^ gf8mul a c := by
  apply BitVec.eq_of_toNat_eq
  simp only [toNat_gf8mul, BitVec.toNat_xor, clmul_xor_right, pmod_xor p8_ne_zero]

theorem gf8mul_one_left (a : Byte) : gf8mul 1#8 a = a := by
  apply BitVec.eq_of_toNat_eq
  rw [toNat_gf8mul, show (1#8).toNat = 1 from rfl, clmul_one_left, pmod_of_lt p8_ne_zero (toNat_lt_two_pow_log2_p8 a)]

/-- A product is 1 where the factors are inverse to each other. -/
theorem gf8mul_eq_one_iff (a b : Byte) : gf8mul a b = 1#8 ↔ Inverse p8 a.toNat b.toNat := by
  rw [← BitVec.toNat_inj, toNat_gf8mul, pmod_eq_iff p8_ne_zero]
  exact and_iff_right (by decide)

/-- P8 is irreducible: Euclid's algorithm finds an inverse of every nonzero byte. -/
theorem isSome_pinv_p8 : ∀ a : Byte, a ≠ 0#8 → (pinv a.toNat p8).isSome = true := by decide +kernel

/-- The inverse of a nonzero byte, as a byte. -/
theorem exists_gf8_inverse {a : Byte} (h : a ≠ 0#8) : ∃ b : Byte, Inverse p8 a.toNat b.toNat ∧ gf8inv a = some b := by
  obtain ⟨r, hr⟩ := Option.isSome_iff_exists.mp (isSome_pinv_p8 a h)
  obtain ⟨hlt, hinv⟩ := (pinv_eq_some_iff p8_ne_zero).mp hr
  rw [log2_p8] at hlt
  refine ⟨BitVec.ofNat 8 r, ?_, by rw [gf8inv, hr, Option.map_some]⟩
  rwa [BitVec.toNat_ofNat, Nat.mod_eq_of_lt hlt]

/-- Settles O33: the laws are those of the product modulo P8, and Euclid's algorithm gives the inverses. -/
theorem gf8Field : Obligations.Gf8Field := by
  refine ⟨gf8mul_congruent, gf8mul_comm, gf8mul_assoc, gf8mul_xor, gf8mul_one_left, fun a ha => ?_⟩
  obtain ⟨b, hb, -⟩ := exists_gf8_inverse ha
  refine ⟨b, (gf8mul_eq_one_iff a b).mpr hb, fun c hc => BitVec.eq_of_toNat_eq ?_⟩
  have hc' := (gf8mul_eq_one_iff a c).mp hc
  exact (hc'.congruent hb).eq_of_lt p8_ne_zero (toNat_lt_two_pow_log2_p8 c) (toNat_lt_two_pow_log2_p8 b)

/-! ### The commands -/

section
variable (s : State) (rd rs1 rs2 : EReg)

/-- The low byte of a GF(2^8) operand is the operand (R150). -/
theorem toNat_byteAt_zero {v : Elem} (h : v.toNat < 0x100) : (byteAt v 0).toNat = v.toNat := by
  rw [byteAt, BitVec.extractLsb'_toNat, Nat.mul_zero, Nat.shiftRight_zero]
  exact Nat.mod_eq_of_lt h

theorem isGf8_eq_false {v : Elem} (h : 0x100 ≤ v.toNat) : isGf8 v = false := by
  rw [Bool.eq_false_iff, ne_eq, isGf8_iff]
  omega

theorem exec_gf8mul_ok (h1 : (s.getE rs1).toNat < 0x100) (h2 : (s.getE rs2).toNat < 0x100) :
    exec (.gf8mul rd rs1 rs2) s =
      .next (succeeded (s.setE rd (BitVec.ofNat 512 (gf8mul (byteAt (s.getE rs1) 0) (byteAt (s.getE rs2) 0)).toNat))) := by
  simp [exec, execGf8mul, (isGf8_iff _).mpr h1, (isGf8_iff _).mpr h2]

theorem exec_gf8mul_invalid (h : 0x100 ≤ (s.getE rs1).toNat ∨ 0x100 ≤ (s.getE rs2).toNat) :
    exec (.gf8mul rd rs1 rs2) s = .next (failed s .invalidOperand) := by
  rw [exec, execGf8mul]
  have herr := finish_error s (code := .invalidOperand) (by decide)
  rcases h with h | h
  · simp [isGf8_eq_false h, herr]
  · simp [isGf8_eq_false h, herr]

theorem exec_gf8inv_ok {b : Byte} (h0 : 0 < (s.getE rs1).toNat) (h1 : (s.getE rs1).toNat < 0x100)
    (hb : gf8inv (byteAt (s.getE rs1) 0) = some b) :
    exec (.gf8inv rd rs1) s = .next (succeeded (s.setE rd (BitVec.ofNat 512 b.toNat))) := by
  have hne : s.getE rs1 ≠ 0#512 := by
    intro h
    rw [h, BitVec.toNat_zero] at h0
    exact absurd h0 (Nat.lt_irrefl 0)
  simp [exec, execGf8inv, (isGf8_iff _).mpr h1, hne, hb]

theorem exec_gf8inv_invalid (h : (s.getE rs1).toNat = 0 ∨ 0x100 ≤ (s.getE rs1).toNat) :
    exec (.gf8inv rd rs1) s = .next (failed s .invalidOperand) := by
  rw [exec, execGf8inv]
  have herr := finish_error s (code := .invalidOperand) (by decide)
  rcases h with h | h
  · have hzero : s.getE rs1 = 0#512 := BitVec.eq_of_toNat_eq (by rw [h, BitVec.toNat_zero])
    simp [hzero, herr]
  · simp [isGf8_eq_false h, herr]

end

/-! ### The statements -/

/-- Settles O31: a GF(2^8) operand is its low byte, and the product is reduced modulo P8. -/
theorem gf8Multiply : Obligations.Gf8Multiply := by
  refine fun s rd rs1 rs2 => ⟨fun h1 h2 => ?_, exec_gf8mul_invalid s rd rs1 rs2⟩
  refine ⟨_, BitVec.isLt _, ?_, exec_gf8mul_ok s rd rs1 rs2 h1 h2⟩
  have hcong := gf8mul_congruent (byteAt (s.getE rs1) 0) (byteAt (s.getE rs2) 0)
  rwa [toNat_byteAt_zero h1, toNat_byteAt_zero h2] at hcong

/-- Settles O32: every nonzero byte has an inverse modulo P8. -/
theorem gf8Invert : Obligations.Gf8Invert := by
  refine fun s rd rs1 => ⟨fun h0 h1 => ?_, exec_gf8inv_invalid s rd rs1⟩
  have hbyte := toNat_byteAt_zero h1
  have hne : byteAt (s.getE rs1) 0 ≠ 0#8 := by
    intro h
    rw [h] at hbyte
    exact absurd hbyte.symm (Nat.ne_of_gt h0)
  obtain ⟨b, hinv, hb⟩ := exists_gf8_inverse hne
  exact ⟨b.toNat, b.isLt, hbyte ▸ hinv, exec_gf8inv_ok s rd rs1 h0 h1 hb⟩

end Sys2Proof.Machine
end

section
/-! SUPPORT. The GF(2)[x]/(f) commands: their checks (R156), their results under a valid configuration, and the statements. -/

namespace Sys2Proof.Machine

/-! ### The checks (R156) -/

section
variable {s : State} {rs : List EReg}

theorem gfChecks_unlocked (hl : s.lock = false) : gfChecks s rs = some .notReady := by
  simp [gfChecks, hl]

theorem gfChecks_ok (hl : s.lock = true) (h : ∀ r ∈ rs, (s.getE r).toNat < 2 ^ s.curveM.toNat) : gfChecks s rs = none := by
  rcases gfChecks_cases s rs with ⟨hl', -⟩ | ⟨-, -, hok⟩ | ⟨-, ⟨r, hr, hle⟩, -⟩
  · simp [hl] at hl'
  · exact hok
  · exact absurd (h r hr) (Nat.not_lt.mpr hle)

theorem gfChecks_invalid (hl : s.lock = true) {r : EReg} (hr : r ∈ rs) (h : 2 ^ s.curveM.toNat ≤ (s.getE r).toNat) :
    gfChecks s rs = some .invalidOperand := by
  rcases gfChecks_cases s rs with ⟨hl', -⟩ | ⟨-, hlt, -⟩ | ⟨-, -, hinvalid⟩
  · simp [hl] at hl'
  · exact absurd (hlt r hr) (Nat.not_lt.mpr h)
  · exact hinvalid

end

/-! ### The commands after their checks -/

section
variable {s : State} (rd : EReg) {rs1 rs2 : EReg}

theorem exec_gfmadd_of_error {code : ErrCode} (hne : code ≠ .ok) (h : gfChecks s [rs1, rs2] = some code) :
    exec (.gfmadd rd rs1 rs2) s = .next (failed s code) := by
  simp only [exec, execGfmadd, h, finish_error s hne]

theorem exec_gfmmul_of_error {code : ErrCode} (hne : code ≠ .ok) (h : gfChecks s [rs1, rs2] = some code) :
    exec (.gfmmul rd rs1 rs2) s = .next (failed s code) := by
  simp only [exec, execGfmmul, h, finish_error s hne]

theorem exec_gfmsqr_of_error {code : ErrCode} (hne : code ≠ .ok) (h : gfChecks s [rs1] = some code) :
    exec (.gfmsqr rd rs1) s = .next (failed s code) := by
  simp only [exec, execGfmsqr, h, finish_error s hne]

theorem exec_gfminv_of_error {code : ErrCode} (hne : code ≠ .ok) (h : gfChecks s [rs1] = some code) :
    exec (.gfminv rd rs1) s = .next (failed s code) := by
  simp only [exec, execGfminv, h, finish_error s hne]

theorem evenReg_iff (r : EReg) : evenReg r = true ↔ ¬r.val % 2 = 1 := by
  rw [evenReg, beq_iff_eq]
  omega

theorem exec_gfmred_of_error {code : ErrCode} (he : evenReg rs1 = true) (hne : code ≠ .ok) (h : gfChecks s [] = some code) :
    exec (.gfmred rd rs1) s = .next (failed s code) := by
  simp only [exec, execGfmred, if_neg ((evenReg_iff rs1).mp he), h, finish_error s hne]

theorem exec_gfmadd_ok (h : gfChecks s [rs1, rs2] = none) :
    exec (.gfmadd rd rs1 rs2) s = .next (succeeded (s.setE rd (s.getE rs1 ^^^ s.getE rs2))) := by
  simp only [exec, execGfmadd, h, finish_ok]

theorem exec_gfmmul_ok (h : gfChecks s [rs1, rs2] = none) :
    exec (.gfmmul rd rs1 rs2) s = .next (succeeded (s.setE rd (mulMod s.cf (s.getE rs1) (s.getE rs2)))) := by
  simp only [exec, execGfmmul, h, finish_ok]

theorem exec_gfmred_ok (he : evenReg rs1 = true) (h : gfChecks s [] = none) :
    exec (.gfmred rd rs1) s = .next (succeeded (s.setE rd (BitVec.ofNat 512 (pmod (pairOperand s rs1) s.cf.toNat)))) := by
  simp only [exec, execGfmred, if_neg ((evenReg_iff rs1).mp he), h, finish_ok]

theorem exec_gfminv_some (h : gfChecks s [rs1] = none) (h0 : s.getE rs1 ≠ 0#512) {r : Nat}
    (hr : pinv (s.getE rs1).toNat s.cf.toNat = some r) :
    exec (.gfminv rd rs1) s = .next (succeeded (s.setE rd (BitVec.ofNat 512 r))) := by
  simp only [exec, execGfminv, h, if_neg h0, invMod, hr, Option.map_some, finish_ok]

theorem exec_gfminv_none (h : gfChecks s [rs1] = none) (hr : pinv (s.getE rs1).toNat s.cf.toNat = none) :
    exec (.gfminv rd rs1) s = .next (failed s .invalidOperand) := by
  simp only [exec, execGfminv, h, invMod, hr, Option.map_none, ite_self]
  exact finish_error s (by decide)

end

/-- Settles O36: LOCK is checked before any operand, and GFMRED's list of canonical sources is empty. -/
theorem gfmChecks : Obligations.GfmChecks := by
  have hnr : ErrCode.notReady ≠ .ok := by decide
  have hio : ErrCode.invalidOperand ≠ .ok := by decide
  intro s rd rs1 rs2
  refine ⟨fun hl => ?_, fun hl h => ?_, fun hl h => ?_, fun hl he => ?_⟩
  · have hchecks (rs : List EReg) : gfChecks s rs = some .notReady := gfChecks_unlocked hl
    exact ⟨exec_gfmadd_of_error rd hnr (hchecks _), exec_gfmmul_of_error rd hnr (hchecks _),
      exec_gfmsqr_of_error rd hnr (hchecks _), exec_gfminv_of_error rd hnr (hchecks _),
      fun he => exec_gfmred_of_error rd he hnr (hchecks _)⟩
  · have hchecks : gfChecks s [rs1, rs2] = some .invalidOperand := by
      rcases h with h | h
      · exact gfChecks_invalid hl (by simp) h
      · exact gfChecks_invalid hl (by simp) h
    exact ⟨exec_gfmadd_of_error rd hio hchecks, exec_gfmmul_of_error rd hio hchecks⟩
  · have hchecks : gfChecks s [rs1] = some .invalidOperand := gfChecks_invalid hl (by simp) h
    exact ⟨exec_gfmsqr_of_error rd hio hchecks, exec_gfminv_of_error rd hio hchecks⟩
  · exact ⟨_, exec_gfmred_ok rd he (gfChecks_ok hl (by simp))⟩

/-! ### Results under a valid configuration -/

namespace ConfigOk

variable {s : State}

/-- f is not 0 (R343). -/
theorem cf_ne_zero (h : ConfigOk s) : s.cf.toNat ≠ 0 := by
  intro h0
  have hlead := h.leading
  rw [BitVec.getLsbD, h0, Nat.zero_testBit] at hlead
  cases hlead

/-- deg(f) = m (R343). -/
theorem log2_cf (h : ConfigOk s) : s.cf.toNat.log2 = s.curveM.toNat :=
  (Nat.log2_eq_iff h.cf_ne_zero).mpr ⟨Nat.ge_two_pow_of_testBit h.leading, h.degree⟩

/-- Reduction modulo f gives a canonical congruent value (R12, R155). -/
theorem pmod_cf (h : ConfigOk s) (v : Nat) :
    pmod v s.cf.toNat < 2 ^ s.curveM.toNat ∧ Congruent s.cf.toNat v (pmod v s.cf.toNat) :=
  h.log2_cf ▸ pmod_spec v s.cf.toNat h.cf_ne_zero

end ConfigOk

/-- Settles O34: the checks pass, and reduction modulo f gives a canonical element of the result's class. -/
theorem gfmArithmetic : Obligations.GfmArithmetic := by
  intro s rd rs1 rs2 hl hc
  refine ⟨fun h1 h2 => ?_, fun h1 => ?_, fun he => ?_⟩
  · have hchecks : gfChecks s [rs1, rs2] = none := gfChecks_ok hl (by simp [h1, h2])
    obtain ⟨hlt, hcong⟩ := hc.pmod_cf (clmul (s.getE rs1).toNat (s.getE rs2).toNat)
    refine ⟨exec_gfmadd_ok rd hchecks, ?_, _, hlt, hcong, exec_gfmmul_ok rd hchecks⟩
    rw [BitVec.toNat_xor]
    exact Nat.xor_lt_two_pow h1 h2
  · have hchecks : gfChecks s [rs1, rs1] = none := gfChecks_ok hl (by simp [h1])
    obtain ⟨hlt, hcong⟩ := hc.pmod_cf (clmul (s.getE rs1).toNat (s.getE rs1).toNat)
    exact ⟨_, hlt, hcong, (exec_gfmsqr_eq s rd rs1).trans (exec_gfmmul_ok rd hchecks)⟩
  · obtain ⟨hlt, hcong⟩ := hc.pmod_cf (pairOperand s rs1)
    rw [Nat.add_comm]
    exact ⟨_, hlt, hcong, exec_gfmred_ok rd he (gfChecks_ok hl (by simp))⟩

/-- Settles O35: Euclid's algorithm finds the inverse below 2^m wherever there is one, and 0 has none. -/
theorem gfmInvert : Obligations.GfmInvert := by
  intro s rd rs1 hl hc h1
  have hchecks : gfChecks s [rs1] = none := gfChecks_ok hl (by simpa using h1)
  rw [← hc.log2_cf]
  refine ⟨fun r hr hinv => ?_, fun hnone => ?_⟩
  · have hdeg : s.cf.toNat.log2 ≠ 0 := hc.log2_cf ▸ Nat.ne_of_gt (Nat.lt_of_lt_of_le Nat.two_pos hc.degree_ge)
    have h0 : s.getE rs1 ≠ 0#512 := fun h => hinv.ne_zero hdeg (by rw [h, BitVec.toNat_zero])
    exact exec_gfminv_some rd hchecks h0 ((pinv_eq_some_iff hc.cf_ne_zero).mpr ⟨hr, hinv⟩)
  · exact exec_gfminv_none rd hchecks ((pinv_eq_none_iff hc.cf_ne_zero).mpr hnone)

end Sys2Proof.Machine
end

section
/-! SUPPORT. XOR sums of bytes, and the matrix product of the column mixing as such a sum. -/

namespace Sys2Proof.Machine

/-- The XOR of f 0, .., f (n - 1): the sums of R195. -/
def xorSum (n : Nat) (f : Nat → Byte) : Byte := (List.range n).foldl (fun acc k => acc ^^^ f k) 0#8

theorem xorSum_zero (f : Nat → Byte) : xorSum 0 f = 0#8 := rfl

theorem xorSum_succ (n : Nat) (f : Nat → Byte) : xorSum (n + 1) f = xorSum n f ^^^ f n := by
  simp [xorSum, List.range_succ]

theorem xorSum_congr {n : Nat} {f g : Nat → Byte} (h : ∀ k < n, f k = g k) : xorSum n f = xorSum n g := by
  induction n with
  | zero => rfl
  | succ n ih => rw [xorSum_succ, xorSum_succ, ih fun k hk => h k (by omega), h n (by omega)]

theorem xorSum_xor (n : Nat) (f g : Nat → Byte) :
    xorSum n (fun k => f k ^^^ g k) = xorSum n f ^^^ xorSum n g := by
  induction n with
  | zero => simp only [xorSum_zero, BitVec.xor_self]
  | succ n ih =>
    simp only [xorSum_succ, ih]
    ac_rfl

theorem xorSum_const_zero (n : Nat) : xorSum n (fun _ => 0#8) = 0#8 := by
  induction n with
  | zero => rfl
  | succ n ih => rw [xorSum_succ, ih, BitVec.xor_self]

/-- Two sums change places. -/
theorem xorSum_comm (m n : Nat) (f : Nat → Nat → Byte) :
    xorSum m (fun i => xorSum n (f i)) = xorSum n (fun j => xorSum m fun i => f i j) := by
  induction m with
  | zero => simp only [xorSum_zero, xorSum_const_zero]
  | succ m ih => simp only [xorSum_succ, ih, xorSum_xor]

/-- A sum with one term. -/
theorem xorSum_single {n r : Nat} (hr : r < n) (f : Nat → Byte) :
    xorSum n (fun k => if r = k then f k else 0#8) = f r := by
  induction n with
  | zero => omega
  | succ n ih =>
    rw [xorSum_succ]
    rcases Nat.lt_succ_iff_lt_or_eq.mp hr with h | rfl
    · rw [ih h, if_neg (by omega), BitVec.xor_zero]
    · rw [xorSum_congr (g := fun _ => 0#8) fun k hk => if_neg (by omega), xorSum_const_zero, if_pos rfl,
        BitVec.zero_xor]

theorem gf8mul_zero_right (a : Byte) : gf8mul a 0#8 = 0#8 := by
  have h := gf8mul_xor a 0#8 0#8
  rwa [BitVec.xor_self, BitVec.xor_self] at h

/-- R152's distributive law, for a sum. -/
theorem gf8mul_xorSum (a : Byte) (n : Nat) (f : Nat → Byte) :
    gf8mul a (xorSum n f) = xorSum n fun k => gf8mul a (f k) := by
  induction n with
  | zero => exact gf8mul_zero_right a
  | succ n ih => rw [xorSum_succ, xorSum_succ, gf8mul_xor, ih]

/-- R195's product of a column and a row of the circulant matrix. -/
theorem mixByte_eq_xorSum (v : List Byte) (s : Bytes) (c r : Nat) :
    mixByte v s c r = xorSum 8 fun k => gf8mul (cell s c k) (circulant v r k) := rfl

/-- The first rows v and w belong to circulant matrices whose product is the identity (R197). -/
def CirculantInverse (v w : List Byte) : Prop :=
  ∀ r < 8, ∀ l < 8, xorSum 8 (fun k => gf8mul (circulant v k l) (circulant w r k)) = if r = l then 1#8 else 0#8

/-- R197: the two matrices of R196 are inverse to each other. -/
theorem circulantInverse_mdsv : CirculantInverse mdsv mdsiv ∧ CirculantInverse mdsiv mdsv := by
  unfold CirculantInverse
  decide +kernel

/-- Mixing by a matrix and then by its inverse gives each byte back: the two sums change places, and the inner one is an entry
of the identity. -/
theorem mixByte_mixColumns {v w : List Byte} (h : CirculantInverse v w) {nb c r : Nat} (s : Bytes) (hc : c < nb)
    (hr : r < 8) : mixByte w (mixColumns v nb s) c r = cell s c r := by
  have hterm (k : Nat) (hk : k < 8) : gf8mul (cell (mixColumns v nb s) c k) (circulant w r k)
      = xorSum 8 fun l => gf8mul (cell s c l) (gf8mul (circulant v k l) (circulant w r k)) := by
    rw [mixColumns, cell_buildState nb _ hc hk, mixByte_eq_xorSum, gf8mul_comm, gf8mul_xorSum]
    exact xorSum_congr fun l _ => by rw [gf8mul_comm, gf8mul_assoc]
  have hentry (l : Nat) (hl : l < 8) :
      xorSum 8 (fun k => gf8mul (cell s c l) (gf8mul (circulant v k l) (circulant w r k)))
        = if r = l then cell s c l else 0#8 := by
    rw [← gf8mul_xorSum, h r hr l hl, apply_ite (gf8mul (cell s c l)), gf8mul_zero_right, gf8mul_comm, gf8mul_one_left]
  calc mixByte w (mixColumns v nb s) c r
      = xorSum 8 fun k => xorSum 8 fun l => gf8mul (cell s c l) (gf8mul (circulant v k l) (circulant w r k)) :=
        xorSum_congr hterm
    _ = xorSum 8 fun l => if r = l then cell s c l else 0#8 := by rw [xorSum_comm]; exact xorSum_congr hentry
    _ = cell s c r := xorSum_single hr _

end Sys2Proof.Machine
end

section
/-! SUPPORT. The layers and combiners undo each other (R192, R194, R197, R201). -/

namespace Sys2Proof.Machine

/-! ### The layers -/

section
variable {nb : Nat} {s : Bytes}

theorem layerISB_layerSB (box : SBoxes) (hs : s.length = 8 * nb) : layerISB box nb (layerSB box nb s) = s := by
  refine state_ext (by simp) hs fun c hc j hj => ?_
  rw [layerISB, cell_buildState nb _ hc hj, layerSB, cell_buildState nb _ hc hj, Equiv.symm_apply_apply]

theorem layerSB_layerISB (box : SBoxes) (hs : s.length = 8 * nb) : layerSB box nb (layerISB box nb s) = s := by
  refine state_ext (by simp) hs fun c hc j hj => ?_
  rw [layerSB, cell_buildState nb _ hc hj, layerISB, cell_buildState nb _ hc hj, Equiv.apply_symm_apply]

theorem layerISR_layerSR (hs : s.length = 8 * nb) : layerISR nb (layerSR nb s) = s := by
  refine state_ext (by simp) hs fun c hc j hj => ?_
  rw [layerISR, cell_buildState nb _ hc hj, layerSR, cell_buildState nb _ (Nat.mod_lt _ (by omega)) hj]
  exact congrArg (cell s · j) (shifted_column nb c j hc hj)

/-- A column moved back by sh(j) and forth. -/
theorem unshifted_column (nb c j : Nat) (hc : c < nb) (hj : j < 8) :
    ((c + (nb - rowShift nb j)) % nb + rowShift nb j) % nb = c := by
  have h : rowShift nb j ≤ nb := by
    rw [rowShift]
    exact Nat.div_le_of_le_mul (Nat.mul_le_mul_right nb (by omega))
  rw [Nat.mod_add_mod, show c + (nb - rowShift nb j) + rowShift nb j = c + nb by omega, Nat.add_mod_right,
    Nat.mod_eq_of_lt hc]

theorem layerSR_layerISR (hs : s.length = 8 * nb) : layerSR nb (layerISR nb s) = s := by
  refine state_ext (by simp) hs fun c hc j hj => ?_
  rw [layerSR, cell_buildState nb _ hc hj, layerISR, cell_buildState nb _ (Nat.mod_lt _ (by omega)) hj,
    unshifted_column nb c j hc hj]

theorem mixColumns_mixColumns {v w : List Byte} (h : CirculantInverse v w) (hs : s.length = 8 * nb) :
    mixColumns w nb (mixColumns v nb s) = s := by
  refine state_ext (by simp [mixColumns]) hs fun c hc j hj => ?_
  rw [mixColumns, cell_buildState nb _ hc hj, mixByte_mixColumns h s hc hj]

theorem layerIMC_layerMC (hs : s.length = 8 * nb) : layerIMC nb (layerMC nb s) = s :=
  mixColumns_mixColumns circulantInverse_mdsv.1 hs

theorem layerMC_layerIMC (hs : s.length = 8 * nb) : layerMC nb (layerIMC nb s) = s :=
  mixColumns_mixColumns circulantInverse_mdsv.2 hs

/-! ### The combiners -/

theorem getD_take_drop {n j : Nat} (bs : Bytes) (a : Nat) (hj : j < n) :
    ((bs.drop a).take n).getD j 0#8 = bs.getD (a + j) 0#8 := by
  simp [List.getD, hj]

/-- Byte j of a column word is row j of the column (R190). -/
theorem byteAt_column (s : Bytes) (c : Nat) {j : Nat} (hj : j < 8) : byteAt (column s c) j = cell s c j := by
  apply BitVec.eq_of_getLsbD_eq
  intro b hb
  rw [getLsbD_byteAt, column, BitVec.getLsbD_ofNat, testBit_intOf, show (8 * j + b) / 8 = j by omega,
    show (8 * j + b) % 8 = b by omega, getD_take_drop s _ hj]
  simp [cell, hb, show 8 * j + b < 64 by omega]

theorem cell_buildColumns (nb : Nat) (f : Nat → BitVec 64) {c j : Nat} (hc : c < nb) (hj : j < 8) :
    cell (buildColumns nb f) c j = byteAt (f c) j := by
  rw [← byteAt_column _ _ hj, column_buildColumns nb f hc]

/-- A state is what its column words build. -/
theorem buildColumns_eq {f : Nat → BitVec 64} (hs : s.length = 8 * nb) (h : ∀ c < nb, f c = column s c) :
    buildColumns nb f = s := by
  refine state_ext (length_buildColumns nb f) hs fun c hc j hj => ?_
  rw [cell_buildColumns nb f hc hj, h c hc, byteAt_column s c hj]

theorem modSub_modAdd (k : Bytes) (hs : s.length = 8 * nb) : modSub nb (modAdd nb s k) k = s := by
  refine buildColumns_eq hs fun c hc => ?_
  rw [modAdd, column_buildColumns nb _ hc, BitVec.add_sub_cancel]

theorem modAdd_modSub (k : Bytes) (hs : s.length = 8 * nb) : modAdd nb (modSub nb s k) k = s := by
  refine buildColumns_eq hs fun c hc => ?_
  rw [modSub, column_buildColumns nb _ hc, BitVec.sub_add_cancel]

theorem combXor_combXor {k : Bytes} (hs : s.length = 8 * nb) (hk : k.length = 8 * nb) :
    combXor (combXor s k) k = s := by
  have hlen := length_combXor hs hk
  refine state_ext (length_combXor hlen hk) hs fun c hc j hj => ?_
  calc cell (combXor (combXor s k) k) c j
      = cell s c j ^^^ cell k c j ^^^ cell k c j :=
        (combXor_isXor hlen hk c hc j hj).trans (congrArg (· ^^^ cell k c j) (combXor_isXor hs hk c hc j hj))
    _ = cell s c j := by rw [BitVec.xor_assoc, BitVec.xor_self, BitVec.xor_zero]

theorem uncombine_combine (op : Combiner) {k : Bytes} (hs : s.length = 8 * nb) (hk : k.length = 8 * nb) :
    uncombine nb op (combine nb op s k) k = s := by
  cases op with
  | xor => exact combXor_combXor hs hk
  | modAdd => exact modSub_modAdd k hs

theorem combine_uncombine (op : Combiner) {k : Bytes} (hs : s.length = 8 * nb) (hk : k.length = 8 * nb) :
    combine nb op (uncombine nb op s k) k = s := by
  cases op with
  | xor => exact combXor_combXor hs hk
  | modAdd => exact modAdd_modSub k hs

end

end Sys2Proof.Machine
end

section
/-! SUPPORT. BLOCK under a function of its low bytes, the layer commands (R205), and the statements on them. -/

namespace Sys2Proof.Machine

/-! ### BLOCK -/

/-- R39: the first 8·nb bytes through f, and every later byte unchanged. -/
def mapBlock (nb : Nat) (f : Bytes → Bytes) (v : Elem) : Elem := putBytes v (f (bytesOf (8 * nb) v))

theorem onBlock_eq (s : State) (nb : Nat) (f : Bytes → Bytes) : onBlock s nb f = s.setBlock (mapBlock nb f s.block) := rfl

/-- A register is its first n bytes and the later ones. -/
theorem elem_ext {a b : Elem} {n : Nat} (hlow : bytesOf n a = bytesOf n b)
    (hhigh : ∀ i < 64, n ≤ i → byteAt a i = byteAt b i) : a = b := by
  have hbyte (i : Nat) (hi : i < 64) : byteAt a i = byteAt b i := by
    by_cases h : i < n
    · rw [← getD_bytesOf n a i h, hlow, getD_bytesOf n b i h]
    · exact hhigh i hi (Nat.le_of_not_lt h)
  apply BitVec.eq_of_getLsbD_eq
  intro i hi
  have hbit := congrArg (·.getLsbD (i % 8)) (hbyte (i / 8) (by omega))
  simpa only [getLsbD_byteAt, Nat.div_add_mod, Nat.mod_lt i (by omega : 8 > 0), decide_true, Bool.true_and] using hbit

section
variable {nb : Nat} {f g : Bytes → Bytes} {v : Elem}

theorem bytesOf_mapBlock (hnb : nb ≤ 8) (hf : (f (bytesOf (8 * nb) v)).length = 8 * nb) :
    bytesOf (8 * nb) (mapBlock nb f v) = f (bytesOf (8 * nb) v) := by
  have h := bytesOf_putBytes v (f (bytesOf (8 * nb) v)) (by omega)
  rwa [hf] at h

theorem byteAt_mapBlock_of_le (hf : (f (bytesOf (8 * nb) v)).length = 8 * nb) {i : Nat} (hi : i < 64)
    (hle : 8 * nb ≤ i) : byteAt (mapBlock nb f v) i = byteAt v i := by
  rw [mapBlock, byteAt_putBytes _ _ _ hi, if_neg (by omega)]

/-- A function and its inverse restore the register. -/
theorem mapBlock_mapBlock (hnb : nb ≤ 8) (hf : ∀ x, x.length = 8 * nb → (f x).length = 8 * nb)
    (hgf : ∀ x, x.length = 8 * nb → g (f x) = x) : mapBlock nb g (mapBlock nb f v) = v := by
  have hlen : (f (bytesOf (8 * nb) v)).length = 8 * nb := hf _ (length_bytesOf _ _)
  have hback : g (bytesOf (8 * nb) (mapBlock nb f v)) = bytesOf (8 * nb) v := by
    rw [bytesOf_mapBlock hnb hlen, hgf _ (length_bytesOf _ _)]
  have hlen' : (g (bytesOf (8 * nb) (mapBlock nb f v))).length = 8 * nb := by rw [hback, length_bytesOf]
  apply elem_ext (n := 8 * nb)
  · rw [bytesOf_mapBlock hnb hlen', hback]
  · intro i hi hle
    rw [byteAt_mapBlock_of_le hlen' hi hle, byteAt_mapBlock_of_le hlen hi hle]

end

/-- R8: the block sizes of the codes 0, 1 and 2 fit BLOCK. -/
theorem blockWords_le {blk : BitVec 2} (h : blk ≠ 3#2) : blockWords blk ≤ 8 := by
  revert blk
  decide

/-- Row j of column c of a register's bytes is byte 8c + j (R190). -/
theorem rowByte_bytesOf (v : Elem) {nb c j : Nat} (hc : c < nb) (hj : j < 8) :
    rowByte (bytesOf (8 * nb) v) c j = byteAt v (8 * c + j) :=
  getD_bytesOf _ _ _ (by omega)

/-! ### The layer commands -/

section
variable {s : State} (f : Nat → Bytes → Bytes)

theorem layerCommand_reserved (h : s.kcfgBlk = 3#2) : layerCommand s f = .next (failed s .invalidKeySize) := by
  rw [layerCommand, if_pos h, finish_error s (by decide)]

theorem layerCommand_ok (h : s.kcfgBlk ≠ 3#2) :
    layerCommand s f =
      .next (succeeded (s.setBlock (mapBlock (blockWords s.kcfgBlk) (f (blockWords s.kcfgBlk)) s.block))) := by
  rw [layerCommand, if_neg h, finish_ok, onBlock_eq]

variable {f}

/-- R205: the block goes through the layer, and the bytes past it keep their value. -/
theorem layerCommand_block {nb : Nat} (h : s.kcfgBlk ≠ 3#2) (hnb : nb = 2 * 2 ^ s.kcfgBlk.toNat)
    (hf : ∀ x, (f nb x).length = 8 * nb) :
    ∃ b, layerCommand s f = .next (succeeded (s.setBlock b))
      ∧ bytesOf (8 * nb) b = f nb (bytesOf (8 * nb) s.block)
      ∧ ∀ i < 64, 8 * nb ≤ i → byteAt b i = byteAt s.block i := by
  subst hnb
  exact ⟨_, layerCommand_ok f h, bytesOf_mapBlock (blockWords_le h) (hf _),
    fun i hi hle => byteAt_mapBlock_of_le (hf _) hi hle⟩

/-- A layer command and then the command of the inverse layer restore BLOCK. -/
theorem layerCommand_layerCommand {g : Nat → Bytes → Bytes} (h : s.kcfgBlk ≠ 3#2)
    (hf : ∀ nb x, (f nb x).length = 8 * nb) (hgf : ∀ nb x, x.length = 8 * nb → g nb (f nb x) = x) :
    ∃ t u, layerCommand s f = .next t ∧ layerCommand t g = .next u ∧ u.block = s.block :=
  ⟨_, _, layerCommand_ok f h, layerCommand_ok g h, mapBlock_mapBlock (blockWords_le h) (fun x _ => hf _ x) (hgf _)⟩

end

/-! ### The statements -/

/-- Settles O38: SB and ISB byte by byte, on the bytes of BLOCK. -/
theorem spnSubstitution : Obligations.SpnSubstitution := by
  intro s h
  rw [show 16 * 2 ^ s.kcfgBlk.toNat = 8 * (2 * 2 ^ s.kcfgBlk.toNat) by omega]
  constructor
  · obtain ⟨b, hexec, hbytes, hpast⟩ := layerCommand_block h rfl (length_layerSB Config.ksb _)
    refine ⟨b, hexec, fun c hc j hj => ?_, hpast⟩
    rw [← rowByte_bytesOf b hc hj, ← rowByte_bytesOf s.block hc hj, hbytes]
    exact layerSB_isSB _ _ c hc j hj
  · obtain ⟨b, hexec, hbytes, hpast⟩ := layerCommand_block h rfl (length_layerISB Config.ksb _)
    refine ⟨b, hexec, fun c hc j hj => ?_, hpast⟩
    rw [← rowByte_bytesOf b hc hj, ← rowByte_bytesOf s.block hc hj, hbytes]
    exact layerISB_isISB _ _ c hc j hj

/-- Settles O39: SR and ISR byte by byte, on the bytes of BLOCK. -/
theorem spnRowRotation : Obligations.SpnRowRotation := by
  intro s nb h hnb
  have hmod (c k : Nat) (hc : c < nb) : (c + k) % nb < nb := Nat.mod_lt _ (Nat.zero_lt_of_lt hc)
  constructor
  · obtain ⟨b, hexec, hbytes, hpast⟩ := layerCommand_block h hnb (length_layerSR nb)
    refine ⟨b, hexec, fun c hc j hj => ?_, hpast⟩
    rw [← rowByte_bytesOf b (hmod c _ hc) hj, ← rowByte_bytesOf s.block hc hj, hbytes]
    exact layerSR_isSR _ _ c hc j hj
  · obtain ⟨b, hexec, hbytes, hpast⟩ := layerCommand_block h hnb (length_layerISR nb)
    refine ⟨b, hexec, fun c hc j hj => ?_, hpast⟩
    rw [← rowByte_bytesOf b hc hj, ← rowByte_bytesOf s.block (hmod c _ hc) hj, hbytes]
    exact layerISR_isISR _ _ c hc j hj

/-- A mixed state of BLOCK's bytes, byte by byte. -/
theorem isMixed_bytesOf {v : List Byte} {nb : Nat} {a b : Elem}
    (h : IsMixed v nb (bytesOf (8 * nb) a) (bytesOf (8 * nb) b)) :
    ∀ c < nb, ∀ r < 8,
      byteAt b (8 * c + r) =
        (List.range 8).foldl (fun acc k => acc ^^^ gf8mul (byteAt a (8 * c + k)) (v.getD ((k + 8 - r) % 8) 0#8)) 0#8 := by
  intro c hc r hr
  rw [← rowByte_bytesOf b hc hr, h c hc r hr]
  exact xorSum_congr fun k hk => by rw [rowByte_bytesOf a hc hk]

/-- Settles O40: the products of R195 on the bytes of BLOCK. -/
theorem spnColumnMixing : Obligations.SpnColumnMixing := by
  intro s h
  rw [show 16 * 2 ^ s.kcfgBlk.toNat = 8 * (2 * 2 ^ s.kcfgBlk.toNat) by omega]
  constructor
  · obtain ⟨b, hexec, hbytes, hpast⟩ := layerCommand_block h rfl (length_layerMC _)
    exact ⟨b, hexec, isMixed_bytesOf (hbytes ▸ layerMC_isMC _ _), hpast⟩
  · obtain ⟨b, hexec, hbytes, hpast⟩ := layerCommand_block h rfl (length_layerIMC _)
    exact ⟨b, hexec, isMixed_bytesOf (hbytes ▸ layerIMC_isIMC _ _), hpast⟩

/-- Settles O41: the layers undo each other on BLOCK's bytes, and BLK = 3 is refused before any layer. -/
theorem spnLayersInvert : Obligations.SpnLayersInvert := by
  refine fun s => ⟨fun h => ⟨?_, ?_, ?_⟩, fun h i hi => ?_⟩
  · exact layerCommand_layerCommand h (length_layerSB Config.ksb) fun _ _ => layerISB_layerSB Config.ksb
  · exact layerCommand_layerCommand h length_layerSR fun _ _ => layerISR_layerSR
  · exact layerCommand_layerCommand h length_layerMC fun _ _ => layerIMC_layerMC
  · simp only [List.mem_cons, List.not_mem_nil, or_false] at hi
    rcases hi with rfl | rfl | rfl | rfl | rfl | rfl <;> exact layerCommand_reserved _ h

end Sys2Proof.Machine
end

section
/-! SUPPORT. SPN_DEC and SPN_ENC undo each other (R202); what they do step by step (R200, R201); and the statements on ENC and
DEC. -/

namespace Sys2Proof.Machine

section
variable {box : SBoxes} {mix : Bool} {nb rounds : Nat} {key : Nat → Bytes} {s : Bytes}

/-! ### A round with and without the column mixing (R200, R201) -/

theorem encRound_mixed {r : Nat} (h : r + 1 < rounds ∨ mix = true) :
    encRound box mix nb rounds key r s =
      layerMC nb (layerSR nb (layerSB box nb (combine nb (comb r rounds) s (key r)))) := if_pos h

theorem encRound_unmixed {r : Nat} (h : ¬(r + 1 < rounds ∨ mix = true)) :
    encRound box mix nb rounds key r s = layerSR nb (layerSB box nb (combine nb (comb r rounds) s (key r))) := if_neg h

theorem decRound_mixed {r : Nat} (h : r + 1 < rounds ∨ mix = true) :
    decRound box mix nb rounds key r s =
      uncombine nb (comb r rounds) (layerISB box nb (layerISR nb (layerIMC nb s))) (key r) := by
  simp only [decRound, if_pos h]

theorem decRound_unmixed {r : Nat} (h : ¬(r + 1 < rounds ∨ mix = true)) :
    decRound box mix nb rounds key r s = uncombine nb (comb r rounds) (layerISB box nb (layerISR nb s)) (key r) := by
  simp only [decRound, if_neg h]

/-! ### Lengths -/

theorem length_encRound (r : Nat) (s : Bytes) : (encRound box mix nb rounds key r s).length = 8 * nb := by
  by_cases h : r + 1 < rounds ∨ mix = true
  · rw [encRound_mixed h, length_layerMC]
  · rw [encRound_unmixed h, length_layerSR]

theorem length_encRounds (hs : s.length = 8 * nb) (n : Nat) :
    (encRounds box mix nb rounds key n s).length = 8 * nb := by
  cases n with
  | zero => exact hs
  | succ n => exact length_encRound n _

theorem length_decRound {r : Nat} (hk : (key r).length = 8 * nb) (s : Bytes) :
    (decRound box mix nb rounds key r s).length = 8 * nb :=
  length_uncombine _ (length_layerISB _ _ _) hk

theorem length_decRounds (hk : ∀ i, (key i).length = 8 * nb) (hs : s.length = 8 * nb) (n : Nat) :
    (decRounds box mix nb rounds key n s).length = 8 * nb := by
  induction n generalizing s with
  | zero => exact hs
  | succ n ih => exact ih (length_decRound (hk n) s)

theorem length_spnEnc (hk : ∀ i, (key i).length = 8 * nb) (hs : s.length = 8 * nb) :
    (spnEnc box mix nb rounds key s).length = 8 * nb :=
  length_combine _ (length_encRounds hs rounds) (hk rounds)

theorem length_spnDec (hk : ∀ i, (key i).length = 8 * nb) (hs : s.length = 8 * nb) :
    (spnDec box mix nb rounds key s).length = 8 * nb :=
  length_decRounds hk (length_uncombine _ hs (hk rounds)) rounds

/-! ### Each round, and then the whole, undone -/

theorem decRound_encRound {r : Nat} (hk : (key r).length = 8 * nb) (hs : s.length = 8 * nb) :
    decRound box mix nb rounds key r (encRound box mix nb rounds key r s) = s := by
  have hc := length_combine (comb r rounds) hs hk
  by_cases h : r + 1 < rounds ∨ mix = true
  · rw [encRound_mixed h, decRound_mixed h, layerIMC_layerMC (length_layerSR _ _),
      layerISR_layerSR (length_layerSB _ _ _), layerISB_layerSB box hc, uncombine_combine _ hs hk]
  · rw [encRound_unmixed h, decRound_unmixed h, layerISR_layerSR (length_layerSB _ _ _), layerISB_layerSB box hc,
      uncombine_combine _ hs hk]

theorem encRound_decRound {r : Nat} (hk : (key r).length = 8 * nb) (hs : s.length = 8 * nb) :
    encRound box mix nb rounds key r (decRound box mix nb rounds key r s) = s := by
  by_cases h : r + 1 < rounds ∨ mix = true
  · rw [encRound_mixed h, decRound_mixed h, combine_uncombine _ (length_layerISB _ _ _) hk,
      layerSB_layerISB box (length_layerISR _ _), layerSR_layerISR (length_layerIMC _ _), layerMC_layerIMC hs]
  · rw [encRound_unmixed h, decRound_unmixed h, combine_uncombine _ (length_layerISB _ _ _) hk,
      layerSB_layerISB box (length_layerISR _ _), layerSR_layerISR hs]

theorem decRounds_encRounds (hk : ∀ i, (key i).length = 8 * nb) (hs : s.length = 8 * nb) (n : Nat) :
    decRounds box mix nb rounds key n (encRounds box mix nb rounds key n s) = s := by
  induction n with
  | zero => rfl
  | succ n ih => rw [decRounds, encRounds, decRound_encRound (hk n) (length_encRounds hs n), ih]

theorem encRounds_decRounds (hk : ∀ i, (key i).length = 8 * nb) (hs : s.length = 8 * nb) (n : Nat) :
    encRounds box mix nb rounds key n (decRounds box mix nb rounds key n s) = s := by
  induction n generalizing s with
  | zero => rfl
  | succ n ih => rw [decRounds, encRounds, ih (length_decRound (hk n) s), encRound_decRound (hk n) hs]

/-- R202. -/
theorem spnDec_spnEnc (hk : ∀ i, (key i).length = 8 * nb) (hs : s.length = 8 * nb) :
    spnDec box mix nb rounds key (spnEnc box mix nb rounds key s) = s := by
  rw [spnDec, spnEnc, uncombine_combine _ (length_encRounds hs rounds) (hk rounds), decRounds_encRounds hk hs]

theorem spnEnc_spnDec (hk : ∀ i, (key i).length = 8 * nb) (hs : s.length = 8 * nb) :
    spnEnc box mix nb rounds key (spnDec box mix nb rounds key s) = s := by
  rw [spnDec, spnEnc, encRounds_decRounds hk (length_uncombine _ hs (hk rounds)), combine_uncombine _ hs (hk rounds)]

end

/-! ### Step by step -/

section
variable {nb rounds : Nat} {key : Nat → Bytes} {s : Bytes}

/-- R200's steps: the states between the rounds are those of `encRounds`. -/
theorem spnEnc_isSpnEnc (hk : ∀ i, (key i).length = 8 * nb) (hs : s.length = 8 * nb) :
    IsSpnEnc nb rounds key s (spnEnc Config.ksb false nb rounds key s) := by
  refine ⟨fun r => encRounds Config.ksb false nb rounds key r s, rfl, fun r _ => ?_,
    combine_isComb (length_encRounds hs rounds) (hk rounds)⟩
  refine ⟨_, _, _, combine_isComb (length_encRounds hs r) (hk r), layerSB_isSB nb _, layerSR_isSR nb _,
    fun hr => ?_, fun hr => ?_⟩
  · change IsMC nb _ (encRound Config.ksb false nb rounds key r _)
    rw [encRound_mixed (.inl hr)]
    exact layerMC_isMC nb _
  · exact encRound_unmixed (by simp [hr])

/-- The states between the rounds that `decRounds` undoes, numbered as R201 numbers them. -/
theorem exists_states_decRounds (box : SBoxes) (mix : Bool) (nb rounds : Nat) (key : Nat → Bytes) (n : Nat)
    (s : Bytes) :
    ∃ st : Nat → Bytes, st n = s ∧ (∀ r < n, st r = decRound box mix nb rounds key r (st (r + 1)))
      ∧ st 0 = decRounds box mix nb rounds key n s := by
  induction n generalizing s with
  | zero => exact ⟨fun _ => s, rfl, fun r hr => absurd hr (Nat.not_lt_zero r), rfl⟩
  | succ n ih =>
    obtain ⟨st, hlast, hround, hfirst⟩ := ih (decRound box mix nb rounds key n s)
    have hbelow (r : Nat) (hr : r ≤ n) : Function.update st (n + 1) s r = st r :=
      Function.update_of_ne (Nat.ne_of_lt (Nat.lt_succ_of_le hr)) _ _
    refine ⟨Function.update st (n + 1) s, Function.update_self .., fun r hr => ?_, ?_⟩
    · rw [hbelow r (by omega)]
      rcases Nat.lt_succ_iff_lt_or_eq.mp hr with h | rfl
      · rw [hbelow (r + 1) h, hround r h]
      · rw [Function.update_self, hlast]
    · rw [hbelow 0 (Nat.zero_le n), hfirst, decRounds]

/-- R201's steps. -/
theorem spnDec_isSpnDec (hk : ∀ i, (key i).length = 8 * nb) (hs : s.length = 8 * nb) :
    IsSpnDec nb rounds key s (spnDec Config.ksb false nb rounds key s) := by
  obtain ⟨st, hlast, hround, hfirst⟩ := exists_states_decRounds Config.ksb false nb rounds key rounds
    (uncombine nb (comb rounds rounds) s (key rounds))
  refine ⟨st, hlast ▸ uncombine_isInvComb hs (hk rounds), fun r hr => ?_, hfirst⟩
  by_cases h : r + 1 < rounds
  · refine ⟨_, _, _, fun _ => layerIMC_isIMC nb _, fun hr' => absurd h (by omega), layerISR_isISR nb _,
      layerISB_isISB nb _, ?_⟩
    rw [hround r hr, decRound_mixed (.inl h)]
    exact uncombine_isInvComb (length_layerISB _ _ _) (hk r)
  · refine ⟨_, _, _, fun hr' => absurd hr' h, fun _ => rfl, layerISR_isISR nb _, layerISB_isISB nb _, ?_⟩
    rw [hround r hr, decRound_unmixed (by simp [h])]
    exact uncombine_isInvComb (length_layerISB _ _ _) (hk r)

end

/-! ### The commands -/

section
variable {s : State} {f g : Nat → Nat → (Nat → Bytes) → Bytes → Bytes}

theorem cipherCommand_not_ready (h : s.schedValid = false) : cipherCommand s f = .next (failed s .notReady) := by
  rw [cipherCommand, h]
  exact finish_error s (by decide)

theorem cipherCommand_ok (h : s.schedValid = true) :
    cipherCommand s f =
      .next (succeeded (s.setBlock (mapBlock (blockWords s.schedBlk)
        (f (blockWords s.schedBlk) s.schedNr.toNat (roundKey s (blockWords s.schedBlk))) s.block))) := by
  rw [cipherCommand, h]
  exact finish_ok s _

@[simp] theorem length_roundKey (s : State) (nb i : Nat) : (roundKey s nb i).length = 8 * nb := length_bytesOf _ _

/-- R212, R213: the block of the latched size goes through f under the stored keys, and the bytes past it keep their value. -/
theorem cipherCommand_block {nb : Nat} (hv : s.schedValid = true) (h : s.schedBlk ≠ 3#2)
    (hnb : nb = 2 * 2 ^ s.schedBlk.toNat)
    (hf : ∀ {x : Bytes}, x.length = 8 * nb → (f nb s.schedNr.toNat (roundKey s nb) x).length = 8 * nb) :
    ∃ b, cipherCommand s f = .next (succeeded (s.setBlock b))
      ∧ bytesOf (8 * nb) b = f nb s.schedNr.toNat (roundKey s nb) (bytesOf (8 * nb) s.block)
      ∧ ∀ i < 64, 8 * nb ≤ i → byteAt b i = byteAt s.block i := by
  subst hnb
  have hlen := hf (length_bytesOf (8 * blockWords s.schedBlk) s.block)
  exact ⟨_, cipherCommand_ok hv, bytesOf_mapBlock (blockWords_le h) hlen,
    fun i hi hle => byteAt_mapBlock_of_le hlen hi hle⟩

/-- A cipher command and then the command of the inverse function restore BLOCK. -/
theorem cipherCommand_cipherCommand (hv : s.schedValid = true) (h : s.schedBlk ≠ 3#2)
    (hf : ∀ nb rounds key x, (∀ i, (key i).length = 8 * nb) → x.length = 8 * nb →
      (f nb rounds key x).length = 8 * nb ∧ g nb rounds key (f nb rounds key x) = x) :
    ∃ t u, cipherCommand s f = .next t ∧ cipherCommand t g = .next u ∧ u.block = s.block := by
  have hf' := hf (blockWords s.schedBlk) s.schedNr.toNat (roundKey s (blockWords s.schedBlk))
  exact ⟨_, _, cipherCommand_ok hv, cipherCommand_ok hv,
    mapBlock_mapBlock (blockWords_le h) (fun x hx => (hf' x (length_roundKey s _) hx).1)
      fun x hx => (hf' x (length_roundKey s _) hx).2⟩

end

/-! ### The statements -/

/-- Settles O42: the commands run `spnEnc` and `spnDec` on the block, and these are R200's and R201's steps. -/
theorem cipherCommands : Obligations.CipherCommands := by
  refine fun s nb hnb => ⟨fun hv => ⟨cipherCommand_not_ready hv, cipherCommand_not_ready hv⟩, fun hv h => ⟨?_, ?_⟩⟩
  · obtain ⟨b, hexec, hbytes, hpast⟩ := cipherCommand_block (f := spnEnc Config.ksb spnFinalMix) hv h hnb
      (length_spnEnc (length_roundKey s nb))
    exact ⟨b, hexec, hbytes ▸ spnEnc_isSpnEnc (length_roundKey s nb) (length_bytesOf _ _), hbytes, hpast⟩
  · obtain ⟨b, hexec, hbytes, hpast⟩ := cipherCommand_block (f := spnDec Config.ksb spnFinalMix) hv h hnb
      (length_spnDec (length_roundKey s nb))
    exact ⟨b, hexec, hbytes ▸ spnDec_isSpnDec (length_roundKey s nb) (length_bytesOf _ _), hbytes, hpast⟩

/-- Settles O43: each step of R201 undoes one of R200, in the reverse order. -/
theorem decUndoesEnc : Obligations.DecUndoesEnc := by
  refine ⟨fun box mix nb rounds key s _ hs hk => ⟨spnDec_spnEnc hk hs, spnEnc_spnDec hk hs⟩,
    fun s hv h => ⟨?_, ?_⟩⟩
  · exact cipherCommand_cipherCommand hv h fun _ _ _ _ hk hx => ⟨length_spnEnc hk hx, spnDec_spnEnc hk hx⟩
  · exact cipherCommand_cipherCommand hv h fun _ _ _ _ hk hx => ⟨length_spnDec hk hx, spnEnc_spnDec hk hx⟩

end Sys2Proof.Machine
end

section
/-! SUPPORT. The even round keys: which key bytes and which constant each is made of (R243 to R245), where KEYEXP stores it
(R250), what Kt and T do step by step (R242, R244); and the statement on them. -/

namespace Sys2Proof.Machine

/-! ### The rows of R240 -/

section
variable {blk klen : BitVec 2} {row : KeyRow}

/-- The list of rows is the model's table, and what the stages use of a row. -/
theorem keyRow_of_mem_keyRows (h : (blk, klen, row) ∈ keyRows) :
    keyRow blk klen = some row ∧ 0 < row.nb ∧ row.nb ≤ 8 ∧ (row.nk = row.nb ∨ row.nk = 2 * row.nb) :=
  (by decide : ∀ r ∈ keyRows, keyRow r.1 r.2.1 = some r.2.2 ∧ 0 < r.2.2.nb ∧ r.2.2.nb ≤ 8
    ∧ (r.2.2.nk = r.2.2.nb ∨ r.2.2.nk = 2 * r.2.2.nb)) _ h

/-- The constant state of R242 on every row: word 0 is Nb + Nk + 1, the others are 0. -/
theorem columnInt_stageConstant (h : (blk, klen, row) ∈ keyRows) :
    ∀ c < row.nb, columnInt (bytesOf (8 * row.nb) (BitVec.ofNat 512 (row.nb + row.nk + 1))) c
      = if c = 0 then row.nb + row.nk + 1 else 0 :=
  (by decide +kernel : ∀ r ∈ keyRows, ∀ c < r.2.2.nb,
    columnInt (bytesOf (8 * r.2.2.nb) (BitVec.ofNat 512 (r.2.2.nb + r.2.2.nk + 1))) c
      = if c = 0 then r.2.2.nb + r.2.2.nk + 1 else 0) _ h

end

/-! ### The round constants (R243) -/

/-- Each shift of the constant state shifts the word of every column. -/
theorem column_iterate_shiftTmv {nb c : Nat} (hc : c < nb) (n : Nat) :
    column ((shiftTmv nb)^[n] (initialTmv nb)) c = 0x0001000100010001#64 <<< n := by
  induction n with
  | zero => exact column_buildColumns nb _ hc
  | succ n ih =>
    rw [Function.iterate_succ_apply', shiftTmv, column_buildColumns nb _ hc, ih, BitVec.shiftLeft_add]

theorem columnInt_iterate_shiftTmv {nb c : Nat} (hc : c < nb) (n : Nat) :
    columnInt ((shiftTmv nb)^[n] (initialTmv nb)) c = 0x0001000100010001 * 2 ^ n % 2 ^ 64 := by
  rw [columnInt_eq, column_iterate_shiftTmv hc, BitVec.toNat_shiftLeft, Nat.shiftLeft_eq]
  rfl

/-! ### The rotated key (R245) -/

@[simp] theorem length_iterate_rotateBytes (n m : Nat) (bs : Bytes) : ((rotateBytes n)^[m] bs).length = bs.length := by
  induction m with
  | zero => rfl
  | succ m ih => rw [Function.iterate_succ_apply', length_rotateBytes, ih]

theorem getD_iterate_rotateBytes {n t : Nat} {bs : Bytes} (hn : n ≤ bs.length) (ht : t < bs.length) (m : Nat) :
    ((rotateBytes n)^[m] bs).getD t 0#8 = bs.getD ((t + n * m) % bs.length) 0#8 := by
  induction m generalizing t with
  | zero => rw [Nat.mul_zero, Nat.add_zero, Nat.mod_eq_of_lt ht, Function.iterate_zero_apply]
  | succ m ih =>
    have hlen := length_iterate_rotateBytes n m bs
    have ht' : (t + n) % bs.length < bs.length := Nat.mod_lt _ (Nat.zero_lt_of_lt ht)
    rw [Function.iterate_succ_apply', getD_rotateBytes n _ t (by omega) (by omega), hlen, ih ht', Nat.mod_add_mod,
      Nat.mul_succ, Nat.add_assoc, Nat.add_comm n]

/-- The bytes that the loop of R245 transforms into its n-th key: the low half, and when Nk = 2 Nb the high half in every
second turn, of the key rotated by a word per turn of the loop. -/
def evenKeyData (nb nk : Nat) (id : Bytes) (n : Nat) : Bytes :=
  if nk = 2 * nb then (((rotateBytes 8)^[n / 2] id).drop (8 * nb * (n % 2))).take (8 * nb)
  else ((rotateBytes 8)^[n] id).take (8 * nb)

theorem evenKeyData_zero (nb nk : Nat) (id : Bytes) : evenKeyData nb nk id 0 = id.take (8 * nb) := by
  simp [evenKeyData]

theorem evenKeyData_one {nb nk : Nat} (h : nk = 2 * nb) (id : Bytes) :
    evenKeyData nb nk id 1 = (id.drop (8 * nb)).take (8 * nb) := by
  simp [evenKeyData, h]

theorem evenKeyData_add_two {nb nk : Nat} (h : nk = 2 * nb) (id : Bytes) (n : Nat) :
    evenKeyData nb nk id (n + 2) = evenKeyData nb nk (rotateBytes 8 id) n := by
  simp [evenKeyData, h]

theorem evenKeyData_succ {nb nk : Nat} (h : nk ≠ 2 * nb) (id : Bytes) (n : Nat) :
    evenKeyData nb nk id (n + 1) = evenKeyData nb nk (rotateBytes 8 id) n := by
  simp [evenKeyData, h]

/-- The n-th key of R245's loop in closed form: one turn of the loop makes two keys when Nk = 2 Nb, and one otherwise. -/
theorem getElem?_evenKeys (box : SBoxes) (nb nk : Nat) (kt : Bytes) (count : Nat) (id tmv : Bytes) {n : Nat}
    (hn : n < count) :
    (evenKeys box nb nk kt count id tmv)[n]?
      = some (keyTransform box nb kt (evenKeyData nb nk id n) ((shiftTmv nb)^[n] tmv)) := by
  fun_induction evenKeys box nb nk kt count id tmv generalizing n
  case case1 => omega
  case case2 id tmv =>
    obtain rfl : n = 0 := by omega
    rw [evenKeyData_zero]
    rfl
  case case3 id tmv count _ _ hk _ ih =>
    match n with
    | 0 => rw [evenKeyData_zero]; rfl
    | 1 => rw [evenKeyData_one hk]; rfl
    | n + 2 => rw [List.getElem?_cons_succ, List.getElem?_cons_succ, ih (by omega), evenKeyData_add_two hk]; rfl
  case case4 id tmv count _ _ hk ih =>
    match n with
    | 0 => rw [evenKeyData_zero]; rfl
    | n + 1 => rw [List.getElem?_cons_succ, ih (by omega), evenKeyData_succ hk]; rfl

theorem getD_map_range {n j : Nat} (f : Nat → Byte) (hj : j < n) : ((List.range n).map f).getD j 0#8 = f j := by
  simp [List.getD, hj]

/-- The same bytes, read off the key register. -/
theorem evenKeyData_bytesOf {nb nk : Nat} (hnb : 0 < nb) (hnk : nk = nb ∨ nk = 2 * nb) (key : Elem) (n : Nat) :
    evenKeyData nb nk (bytesOf (8 * nk) key) n =
      (List.range (8 * nb)).map fun j =>
        byteAt key ((j + if nk = nb then 8 * n else 8 * (n / 2) + 8 * nb * (n % 2)) % (8 * nk)) := by
  have hrotated (m t : Nat) (ht : t < 8 * nk) :
      ((rotateBytes 8)^[m] (bytesOf (8 * nk) key)).getD t 0#8 = byteAt key ((t + 8 * m) % (8 * nk)) := by
    have hmod : (t + 8 * m) % (8 * nk) < 8 * nk := Nat.mod_lt _ (by omega)
    rw [getD_iterate_rotateBytes (by simp; omega) (by simpa using ht), length_bytesOf, getD_bytesOf _ _ _ hmod]
  rcases hnk with rfl | rfl
  · rw [evenKeyData, if_neg (by omega)]
    apply bytes_ext (by simp)
    intro j hj
    have hj : j < 8 * nk := by simpa using hj
    rw [← List.drop_zero (l := (rotateBytes 8)^[n] _), getD_take_drop _ 0 hj, Nat.zero_add, hrotated n j hj,
      getD_map_range _ hj, if_pos rfl]
  · rw [evenKeyData, if_pos rfl]
    have hhalf : 8 * nb * (n % 2) ≤ 8 * nb := (Nat.mul_le_mul_left _ (by omega : n % 2 ≤ 1)).trans_eq (Nat.mul_one _)
    apply bytes_ext (by simp; omega)
    intro j hj
    have hj : j < 8 * nb := by simp at hj; omega
    rw [getD_take_drop _ _ hj, hrotated _ _ (by omega), getD_map_range _ hj, if_neg (by omega)]
    congr 2
    omega

/-! ### Kt and T step by step (R242, R244) -/

theorem keyTransform_isKeyTransform (nb : Nat) (kt d c : Bytes) :
    IsKeyTransform nb kt d c (keyTransform Config.ksb nb kt d c) :=
  ⟨_, _, _, _, _, modAdd_isModAdd nb kt c, modAdd_isModAdd nb d _, roundG_isRoundG nb _,
    combXor_isXor (length_roundG _ _ _) (length_modAdd _ _ _), roundG_isRoundG nb _, modAdd_isModAdd nb _ _⟩

theorem stageKt_isStageKt {blk klen : BitVec 2} {row : KeyRow} (h : (blk, klen, row) ∈ keyRows) (key : Elem) :
    IsStageKt row.nb row.nk key (stageKt Config.ksb row.nb row.nk (bytesOf (8 * row.nk) key)) := by
  obtain ⟨-, -, -, hnk⟩ := keyRow_of_mem_keyRows h
  have hbyte (i : Nat) (hi : i < 8 * row.nk) : (bytesOf (8 * row.nk) key).getD i 0#8 = byteAt key i :=
    getD_bytesOf _ key i hi
  refine ⟨_, (bytesOf (8 * row.nk) key).take (8 * row.nb), _, _, _, _, _, _, columnInt_stageConstant h, fun i hi => ?_,
    fun i hi => ?_, modAdd_isModAdd _ _ _, roundG_isRoundG _ _, combXor_isXor (length_roundG _ _ _) ?_,
    roundG_isRoundG _ _, modAdd_isModAdd _ _ _, roundG_isRoundG _ _⟩
  · rw [← hbyte i (by omega)]
    simp [List.getD, hi]
  · split
    · rw [← hbyte i (by omega)]
      simp [List.getD, hi]
    · rw [← hbyte _ (by omega)]
      simp [List.getD, hi]
  · split <;> simp <;> omega

/-! ### The stored keys -/

/-- Stage 3 keeps the even keys at the even numbers (R246). -/
theorem getElem?_withOddKeys_even (nb : Nat) (ks : List Bytes) (n : Nat) : (withOddKeys nb ks)[2 * n]? = ks[n]? := by
  fun_induction withOddKeys nb ks generalizing n
  case case1 => simp
  case case2 =>
    cases n with
    | zero => rfl
    | succ n => simp [Nat.mul_succ]
  case case3 ih =>
    cases n with
    | zero => rfl
    | succ n => rw [Nat.mul_succ, List.getElem?_cons_succ, List.getElem?_cons_succ, ih, List.getElem?_cons_succ]

/-- Round key 2n of EXPAND in closed form. -/
theorem getElem?_expandKey_even (box : SBoxes) (row : KeyRow) (key : Bytes) {n : Nat} (hn : n ≤ row.rounds / 2) :
    (expandKey box row key)[2 * n]?
      = some (keyTransform box row.nb (stageKt box row.nb row.nk key) (evenKeyData row.nb row.nk key n)
          ((shiftTmv row.nb)^[n] (initialTmv row.nb))) := by
  rw [expandKey, getElem?_withOddKeys_even, getElem?_evenKeys _ _ _ _ _ _ _ (Nat.lt_succ_of_le hn)]

theorem exec_keyexp_ok {s : State} {row : KeyRow} (h : keyRow s.kcfgBlk s.kcfgKlen = some row) :
    exec .keyexp s = .next (succeeded (s.setSchedule (expandSlots Config.ksb row s.key) row.rounds)) := by
  rw [exec, execKeyexp, h, finish_ok]

theorem getRk_succeeded (s : State) (i : Nat) : (succeeded s).getRk i = s.getRk i := rfl

/-- The bytes of a stored round key are those that EXPAND gives (R250). -/
theorem bytesOf_getRk_expandSlots (s : State) (box : SBoxes) {row : KeyRow} (hnb : row.nb ≤ 8)
    (heven : row.rounds % 2 = 0) (hrounds : row.rounds ≤ 18) {i : Nat} {k : Bytes}
    (hk : (expandKey box row (bytesOf (8 * row.nk) s.key))[i]? = some k) :
    bytesOf (8 * row.nb) ((s.setSchedule (expandSlots box row s.key) row.rounds).getRk i) = k := by
  have hlen := length_of_mem_expandKey box row _ k (List.mem_of_getElem? hk)
  rw [expandSlots, getRk_storeKeys s (by rw [length_expandKey box heven]; omega), hk, ← hlen]
  exact bytesOf_zextBytes k (by omega)

/-- Settles O46: the loop of R245 in closed form, and its keys at the even slots. -/
theorem keyexpEvenKeys : Obligations.KeyexpEvenKeys := by
  intro s row h
  obtain ⟨hrow, hpos, hnb, hnk⟩ := keyRow_of_mem_keyRows h
  obtain ⟨heven, hrounds⟩ := keyRow_rounds hrow
  refine ⟨_, _, exec_keyexp_ok hrow, stageKt_isStageKt h s.key, rfl, fun n hn => ?_⟩
  refine ⟨_, (shiftTmv row.nb)^[n] (initialTmv row.nb), rfl, fun col hcol => columnInt_iterate_shiftTmv hcol n, ?_⟩
  have hstored := bytesOf_getRk_expandSlots s Config.ksb hnb heven hrounds
    (getElem?_expandKey_even Config.ksb row (bytesOf (8 * row.nk) s.key) hn)
  rw [evenKeyData_bytesOf hpos hnk] at hstored
  rw [getRk_succeeded]
  exact ⟨hstored ▸ keyTransform_isKeyTransform _ _ _ _, hstored⟩

end Sys2Proof.Machine
end

section
/-! SUPPORT. The stored schedule: which KCFG pairs KEYEXP takes (R240), what each slot holds (R246, R250) and which key bytes
it depends on (R241, R248); and the statements on them. -/

namespace Sys2Proof.Machine

/-! ### The pairs that KEYEXP refuses -/

/-- The model's table has no row but those of the list. -/
theorem mem_keyRows_of_keyRow {blk klen : BitVec 2} {row : KeyRow} (h : keyRow blk klen = some row) :
    (blk, klen, row) ∈ keyRows :=
  (by decide : ∀ blk klen : BitVec 2, ∀ row ∈ keyRow blk klen, (blk, klen, row) ∈ keyRows) blk klen row h

theorem keyRow_eq_none {blk klen : BitVec 2} (h : ∀ row, (blk, klen, row) ∉ keyRows) : keyRow blk klen = none :=
  Option.eq_none_iff_forall_ne_some.mpr fun row hrow => h row (mem_keyRows_of_keyRow hrow)

theorem exec_keyexp_invalid {s : State} (h : keyRow s.kcfgBlk s.kcfgKlen = none) :
    exec .keyexp s = .next (failed s .invalidKeySize) := by
  rw [exec, execKeyexp, h]
  exact finish_error s (by decide)

/-! ### A successful completion keeps the schedule (R347) -/

@[simp] theorem succeeded_rk (u : State) : (succeeded u).rk = u.rk := rfl
@[simp] theorem succeeded_schedValid (u : State) : (succeeded u).schedValid = u.schedValid := rfl
@[simp] theorem succeeded_schedBlk (u : State) : (succeeded u).schedBlk = u.schedBlk := rfl
@[simp] theorem succeeded_schedKlen (u : State) : (succeeded u).schedKlen = u.schedKlen := rfl
@[simp] theorem succeeded_schedNr (u : State) : (succeeded u).schedNr = u.schedNr := rfl

/-! ### The slots -/

theorem getRk_setSchedule (s : State) (slots : Vector Elem 19) (rounds : Nat) {i : Nat} (hi : i < 19) :
    (s.setSchedule slots rounds).getRk i = slots[i] := by
  simp [State.getRk, hi]

/-- What a valid schedule of a known row says of each slot (R250). -/
theorem ScheduleOk.slot {s : State} {row : KeyRow} (h : ScheduleOk s) (hv : s.schedValid = true)
    (hrow : keyRow s.schedBlk s.schedKlen = some row) (i : Nat) :
    (s.getRk i).toNat < 2 ^ (64 * row.nb) ∧ (row.rounds < i → s.getRk i = 0#512) := by
  rw [ScheduleOk, if_pos hv] at h
  obtain ⟨row', hrow', -, hslots⟩ := h
  obtain rfl : row' = row := Option.some.inj (hrow'.symm.trans hrow)
  exact hslots i

/-- Slots 0..R hold the keys of EXPAND, as bytes (R250). -/
theorem getElem?_expandKey_eq_slot (s : State) (box : SBoxes) {row : KeyRow} (hnb : row.nb ≤ 8)
    (heven : row.rounds % 2 = 0) (hrounds : row.rounds ≤ 18) {i : Nat} (hi : i ≤ row.rounds) :
    (expandKey box row (bytesOf (8 * row.nk) s.key))[i]?
      = some (bytesOf (8 * row.nb) ((s.setSchedule (expandSlots box row s.key) row.rounds).getRk i)) := by
  have hlen := length_expandKey box heven (bytesOf (8 * row.nk) s.key)
  have hkey := List.getElem?_eq_getElem (l := expandKey box row (bytesOf (8 * row.nk) s.key)) (i := i) (by omega)
  rw [bytesOf_getRk_expandSlots s box hnb heven hrounds hkey, hkey]

/-! ### The odd keys (R246) -/

/-- Stage 3 puts the rotation of each even key but the last after it. -/
theorem getElem?_withOddKeys_odd (nb : Nat) {ks : List Bytes} {n : Nat} (hn : n + 1 < ks.length) :
    (withOddKeys nb ks)[2 * n + 1]? = (withOddKeys nb ks)[2 * n]?.map (rotateBytes (2 * nb + 3)) := by
  rw [getElem?_withOddKeys_even]
  fun_induction withOddKeys nb ks generalizing n
  case case1 => simp at hn
  case case2 => simp at hn
  case case3 ih =>
    cases n with
    | zero => rfl
    | succ n =>
      rw [Nat.mul_succ, List.getElem?_cons_succ, List.getElem?_cons_succ, ih (by simpa using hn),
        List.getElem?_cons_succ]

/-- Round key 2n + 1 of EXPAND is round key 2n rotated. -/
theorem getElem?_expandKey_odd (box : SBoxes) (row : KeyRow) (key : Bytes) {n : Nat} (hn : n < row.rounds / 2) :
    (expandKey box row key)[2 * n + 1]? = (expandKey box row key)[2 * n]?.map (rotateBytes (2 * row.nb + 3)) :=
  getElem?_withOddKeys_odd row.nb (by rw [length_evenKeys]; omega)

/-- So an odd slot holds the rotated bytes of the slot before it. -/
theorem bytesOf_getRk_expandSlots_odd (s : State) (box : SBoxes) {row : KeyRow} (hnb : row.nb ≤ 8)
    (heven : row.rounds % 2 = 0) (hrounds : row.rounds ≤ 18) {n : Nat} (hn : n < row.rounds / 2) :
    bytesOf (8 * row.nb) ((s.setSchedule (expandSlots box row s.key) row.rounds).getRk (2 * n + 1))
      = rotateBytes (2 * row.nb + 3)
          (bytesOf (8 * row.nb) ((s.setSchedule (expandSlots box row s.key) row.rounds).getRk (2 * n))) := by
  have hrotated := getElem?_expandKey_odd box row (bytesOf (8 * row.nk) s.key) hn
  have hslot := getElem?_expandKey_eq_slot s box hnb heven hrounds (i := 2 * n) (by omega)
  rw [hslot, Option.map_some] at hrotated
  exact bytesOf_getRk_expandSlots s box hnb heven hrounds hrotated

/-- Byte j of a register that holds the rotated low bytes of another. -/
theorem byteAt_of_bytesOf_eq_rotateBytes {a b : Elem} {len n j : Nat} (h : bytesOf len a = rotateBytes n (bytesOf len b))
    (hn : n ≤ len) (hj : j < len) : byteAt a j = byteAt b ((j + n) % len) := by
  rw [← getD_bytesOf len a j hj, h, getD_rotateBytes n _ j (by simpa using hn) (by simpa using hj), length_bytesOf,
    getD_bytesOf _ _ _ (Nat.mod_lt _ (by omega))]

/-! ### What the schedule depends on (R248) -/

theorem bytesOf_congr {w n : Nat} {a b : BitVec w} (h : ∀ i < n, byteAt a i = byteAt b i) : bytesOf n a = bytesOf n b :=
  List.map_congr_left fun i hi => h i (List.mem_range.mp hi)

theorem expandSlots_congr (box : SBoxes) {row : KeyRow} {key key' : Elem}
    (h : ∀ i < 8 * row.nk, byteAt key i = byteAt key' i) : expandSlots box row key = expandSlots box row key' := by
  rw [expandSlots, expandSlots, bytesOf_congr h]

/-! ### The statements -/

/-- Settles O44: the stored keys read back, and the schedule of a row is a legal one. -/
theorem keyexpSchedule : Obligations.KeyexpSchedule := by
  refine fun s => ⟨fun row h => ?_, fun h => exec_keyexp_invalid (keyRow_eq_none h)⟩
  obtain ⟨hrow, -, hnb, -⟩ := keyRow_of_mem_keyRows h
  obtain ⟨heven, hrounds⟩ := keyRow_rounds hrow
  refine ⟨expandSlots Config.ksb row s.key, _, rfl, length_expandKey _ heven _, exec_keyexp_ok hrow, fun i hi => ?_⟩
  obtain ⟨hbound, hzero⟩ := (scheduleOk_keyexp Config.ksb hrow).slot (setSchedule_schedValid ..) hrow i
  rw [← getRk_setSchedule s _ row.rounds hi]
  exact ⟨fun hle => ⟨getElem?_expandKey_eq_slot s _ hnb heven hrounds hle, hbound⟩, hzero⟩

/-- Settles O45: stage 3's rotation, read off the slots. -/
theorem keyexpOddKeys : Obligations.KeyexpOddKeys := by
  intro s row h
  obtain ⟨hrow, hpos, hnb, -⟩ := keyRow_of_mem_keyRows h
  obtain ⟨heven, hrounds⟩ := keyRow_rounds hrow
  refine ⟨_, exec_keyexp_ok hrow, fun i hi hodd j hj => ?_⟩
  obtain ⟨n, rfl⟩ : ∃ n, i = 2 * n + 1 := ⟨i / 2, by omega⟩
  have hrotated := bytesOf_getRk_expandSlots_odd s Config.ksb hnb heven hrounds (n := n) (by omega)
  rw [getRk_succeeded, getRk_succeeded, Nat.add_sub_cancel, Nat.add_assoc j]
  exact byteAt_of_bytesOf_eq_rotateBytes hrotated (by omega) hj

/-- Settles O47: the writes are made of KCFG and the bytes of the key that EXPAND takes. -/
theorem keyexpDeterministic : Obligations.KeyexpDeterministic := by
  intro s s' row h hblk hklen hkey
  obtain ⟨hrow, -⟩ := keyRow_of_mem_keyRows h
  have hrow' : keyRow s'.kcfgBlk s'.kcfgKlen = some row := by rw [hblk, hklen, hrow]
  refine ⟨_, _, exec_keyexp_ok hrow, exec_keyexp_ok hrow', ?_⟩
  simp [expandSlots_congr Config.ksb hkey, hblk, hklen]

end Sys2Proof.Machine
end

section
/-! SUPPORT. The hash's functions in the spec's words: the mixing transforms word by word and byte by byte (R266 to R268), g and
the rounds of E (R263, R264), and f with its four keys (R269, R270); and the statement on them. -/

namespace Sys2Proof.Machine

/-! ### The mixing transforms (R266 to R268) -/

section
variable {n k : Nat}

/-- A register shifted down by one word, with a new word on top, which is what A and ψ make: below the top, each word is the next
one of the register. -/
theorem extractLsb'_shiftDown_low (y : HashWord) (x : BitVec n) {o : Nat} (ho : o + n ≤ k) :
    (y >>> n ||| x.setWidth 256 <<< k).extractLsb' o n = y.extractLsb' (o + n) n := by
  ext b hb
  simp [BitVec.getElem_extractLsb', show o + b < k by omega, show n + (o + b) = o + n + b by omega]

theorem extractLsb'_shiftDown_top (y : HashWord) (x : BitVec n) (hk : k + n = 256) :
    (y >>> n ||| x.setWidth 256 <<< k).extractLsb' k n = x := by
  ext b hb
  simp [BitVec.getElem_extractLsb', show k + b < 256 by omega, BitVec.getLsbD_eq_getElem hb,
    BitVec.getLsbD_of_ge y (n + (k + b)) (by omega)]

end

theorem extractLsb'_mixA (y : HashWord) {i : Nat} (hi : i < 3) :
    (mixA y).extractLsb' (64 * i) 64 = y.extractLsb' (64 * (i + 1)) 64 :=
  extractLsb'_shiftDown_low y _ (by omega)

theorem extractLsb'_mixA_top (y : HashWord) :
    (mixA y).extractLsb' 192 64 = y.extractLsb' 0 64 ^^^ y.extractLsb' 64 64 :=
  extractLsb'_shiftDown_top y _ rfl

theorem extractLsb'_psi (y : HashWord) {i : Nat} (hi : i < 15) :
    (psi y).extractLsb' (16 * i) 16 = y.extractLsb' (16 * (i + 1)) 16 :=
  extractLsb'_shiftDown_low y _ (by omega)

theorem extractLsb'_psi_top (y : HashWord) :
    (psi y).extractLsb' 240 16 =
      y.extractLsb' 0 16 ^^^ y.extractLsb' 16 16 ^^^ y.extractLsb' 32 16 ^^^ y.extractLsb' 48 16
        ^^^ y.extractLsb' 192 16 ^^^ y.extractLsb' 240 16 :=
  extractLsb'_shiftDown_top y _ rfl

/-- Byte j of `int(bs)` is bs[j], in a register that has a byte j (R11). -/
theorem byteAt_ofNat_intOf {w : Nat} (bs : Bytes) {j : Nat} (hj : 8 * j + 8 ≤ w) :
    byteAt (BitVec.ofNat w (intOf bs)) j = bs.getD j 0#8 := by
  apply BitVec.eq_of_getLsbD_eq
  intro b hb
  rw [getLsbD_byteAt, BitVec.getLsbD_ofNat, testBit_intOf, show (8 * j + b) / 8 = j by omega,
    show (8 * j + b) % 8 = b by omega]
  simp [hb, show 8 * j + b < w by omega]

theorem byteAt_mixP (y : HashWord) {i k : Nat} (hi : i < 4) (hk : k < 8) :
    byteAt (mixP y) (i + 4 * k) = byteAt y (8 * i + k) := by
  rw [mixP, byteAt_ofNat_intOf _ (by omega), getD_map_range _ (by omega), show (i + 4 * k) % 4 = i by omega,
    show (i + 4 * k) / 4 = k by omega]

/-! ### The internal cipher (R263, R264) -/

/-- Every S-box row has a value for every nibble, so what stands in for a missing one does not matter. -/
theorem hashBox_eq : ∀ j < 8, ∀ x < 16, hashBox j x = (hashBoxes.getD j []).getD x 16 := by decide

theorem gostG_isGostG (x k : Word) : IsGostG x k (gostG x k) := by
  refine ⟨hashSub (x + k), fun j hj => ?_, rfl⟩
  rw [nibble_hashSub _ j hj, hashBox_eq j hj _ (BitVec.isLt _)]

theorem gostKey_eq (key : HashWord) (i : Nat) :
    gostKey key i = key.extractLsb' (32 * if i < 24 then i % 8 else 31 - i) 32 := by
  rw [gostKey, apply_ite (fun w => key.extractLsb' (32 * w) 32)]
  rfl

theorem gostE_isGostE (key : HashWord) (x : BitVec 64) : IsGostE key x (gostE key x) := by
  refine ⟨fun i => (gostRounds key i (wordAt x 0, wordAt x 1)).1,
    fun i => (gostRounds key i (wordAt x 0, wordAt x 1)).2, rfl, rfl,
    fun i _ => ⟨rfl, _, gostKey_eq key i ▸ gostG_isGostG _ _, rfl⟩, ?_, ?_⟩
  · exact BitVec.extractLsb'_append_eq_left
  · exact BitVec.extractLsb'_append_eq_right

/-! ### The compression function (R269, R270) -/

/-- U as it stands for the key K_j, j = 1..4 (R269). -/
def keyInputU (h : HashWord) : Nat → HashWord
  | 2 => mixA h
  | 3 => mixA (mixA h) ^^^ hc3
  | 4 => mixA (mixA (mixA h) ^^^ hc3)
  | _ => h

/-- V as it stands for the key K_j (R269). -/
def keyInputV (m : HashWord) (j : Nat) : HashWord := (fun v => mixA (mixA v))^[j - 1] m

theorem keyInputV_succ (m : HashWord) {j : Nat} (hj : 1 ≤ j) :
    keyInputV m (j + 1) = mixA (mixA (keyInputV m j)) := by
  obtain ⟨j, rfl⟩ := Nat.exists_eq_add_of_le' hj
  exact Function.iterate_succ_apply' _ j m

theorem getD_hashKeys (h m : HashWord) {i : Nat} (hi : i < 4) :
    (hashKeys h m).getD i 0#256 = mixP (keyInputU h (i + 1) ^^^ keyInputV m (i + 1)) := by
  match i, hi with
  | 0, _ | 1, _ | 2, _ | 3, _ => rfl

theorem compress_isCompress (h m : HashWord) : IsCompress h m (compress h m) := by
  refine ⟨keyInputU h, keyInputV m, hashCipher h m, rfl, rfl, rfl, rfl, rfl, fun j hj _ => keyInputV_succ m hj,
    fun i hi => ?_, ?_⟩
  · rw [word_hashCipher h m i hi, getD_hashKeys h m hi]
    exact gostE_isGostE _ _
  · rw [compress, psiPow_eq_iterate, psiPow_eq_iterate]

/-! ### The statement -/

/-- Settles O51: each function by the lemma on it; the tables digit by digit. -/
theorem hashTransforms : Obligations.HashTransforms :=
  ⟨fun y => ⟨⟨fun _ hi => extractLsb'_mixA y hi, extractLsb'_mixA_top y⟩, fun _ hi _ hk => byteAt_mixP y hi hk,
      fun _ hi => extractLsb'_psi y hi, extractLsb'_psi_top y⟩,
    compress_isCompress, gostE_isGostE, gostG_isGostG, by decide, rfl⟩

end Sys2Proof.Machine
end

section
/-! SUPPORT. HFIN's partial block (R283), what HINIT, HUPD and HFIN do in each state of the lifecycle (R274, R280 to R283), and the
statements on them. -/

namespace Sys2Proof.Machine

/-! ### The partial block (R283) -/

/-- A register is its bytes. -/
theorem eq_of_byteAt {w n : Nat} {a b : BitVec w} (hw : w ≤ 8 * n) (h : ∀ j < n, byteAt a j = byteAt b j) : a = b := by
  apply BitVec.eq_of_getLsbD_eq
  intro i hi
  have hbit := congrArg (·.getLsbD (i % 8)) (h (i / 8) (by omega))
  simpa only [getLsbD_byteAt, Nat.div_add_mod, Nat.mod_lt i (by omega : 8 > 0), decide_true, Bool.true_and] using hbit

theorem byteAt_partialBlock (m : HashWord) (n : Nat) {j : Nat} (hj : j < 32) :
    byteAt (partialBlock m n) j = if j < n then byteAt m j else 0#8 := by
  apply BitVec.eq_of_getLsbD_eq
  intro b hb
  rw [getLsbD_byteAt, partialBlock, BitVec.getLsbD_ofNat, Nat.testBit_mod_two_pow, BitVec.testBit_toNat]
  by_cases h : j < n
  · rw [if_pos h, getLsbD_byteAt]
    simp [show 8 * j + b < 256 by omega, show 8 * j + b < 8 * n by omega]
  · simp [h, show ¬8 * j + b < 8 * n by omega]

/-- The partial block is the only value with the message's first n bytes and zero bytes after them. -/
theorem eq_partialBlock {m x : HashWord} {n : Nat} (h : ∀ j < 32, byteAt x j = if j < n then byteAt m j else 0#8) :
    x = partialBlock m n :=
  eq_of_byteAt (n := 32) (by omega) fun j hj => (h j hj).trans (byteAt_partialBlock m n hj).symm

/-- A partial block of 32 bytes is the whole block. -/
theorem partialBlock_full (m : HashWord) : partialBlock m 32 = m :=
  (eq_partialBlock fun _ hj => (if_pos hj).symm).symm

@[simp] theorem absorbPartial_zero (s : State) : absorbPartial s 0 = s := rfl

theorem absorbPartial_pos (s : State) {n : Nat} (h : 0 < n) :
    absorbPartial s n = absorb s (partialBlock s.hmsg n) (8 * n) :=
  if_neg (Nat.ne_of_gt h)

/-! ### The commands -/

section
variable {s : State} {n : Fin 64}

theorem exec_hinit (s : State) : exec .hinit s = .next (succeeded (s.setHash s.hiv 0#256 0#256 .active)) :=
  finish_ok s _

theorem exec_hupd_active (h : s.hst = .active) : exec .hupd s = .next (succeeded (absorb s s.hmsg 256)) := by
  rw [exec, execHupd, if_neg (not_not_intro h), finish_ok]

theorem exec_hupd_notReady (h : s.hst ≠ .active) : exec .hupd s = .next (failed s .notReady) := by
  rw [exec, execHupd, if_pos h, finish_error s (by decide)]

theorem exec_hfin_active (h : s.hst = .active) (hn : n.val ≤ 32) :
    exec (.hfin n) s = .next (succeeded (closeHash (absorbPartial s n.val))) := by
  rw [exec, execHfin, if_neg (not_not_intro h), if_neg (Nat.not_lt.mpr hn), finish_ok]

theorem exec_hfin_tooLong (h : s.hst = .active) (hn : 32 < n.val) :
    exec (.hfin n) s = .next (failed s .invalidLength) := by
  rw [exec, execHfin, if_neg (not_not_intro h), if_pos hn, finish_error s (by decide)]

theorem exec_hfin_notReady (h : s.hst ≠ .active) : exec (.hfin n) s = .next (failed s .notReady) := by
  rw [exec, execHfin, if_pos h, finish_error s (by decide)]

/-- A finished hash and its digest stay under every command but HINIT (R274): no other command writes the hash state, and
HUPD and HFIN are refused. -/
theorem final_kept_of_ne_hinit {t : State} {i : Instr} (h : s.hst = .final) (hi : i ≠ .hinit)
    (ht : exec i s = .next t) : t.hst = .final ∧ t.hh = s.hh := by
  have hst : s.hst ≠ .active := by simp [h]
  by_cases hw : t.hh ≠ s.hh ∨ t.hsig ≠ s.hsig ∨ t.hlen ≠ s.hlen ∨ t.hst ≠ s.hst
  · obtain ⟨-, -, -, hwriters, -⟩ := writersOfState s t i ht
    rcases hwriters hw with rfl | rfl | ⟨n, rfl⟩
    · exact absurd rfl hi
    · cases (exec_hupd_notReady hst).symm.trans ht
      exact ⟨h, rfl⟩
    · cases (exec_hfin_notReady hst).symm.trans ht
      exact ⟨h, rfl⟩
  · simp only [not_or, not_not] at hw
    obtain ⟨hhh, -, -, hhst⟩ := hw
    exact ⟨hhst.trans h, hhh⟩

end

/-! ### The statements -/

/-- Settles O48: the commands' states in HST = ACTIVE, with the partial block known by its bytes. -/
theorem hashCommands : Obligations.HashCommands := by
  refine ⟨exec_hinit, fun s h => ?_, fun s h => exec_hfin_active h (by decide),
    fun s n m sig len h hpos hle hm hsig hlen => ?_⟩
  · rw [exec_hupd_active h]
    rfl
  · subst hsig hlen
    rw [exec_hfin_active h hle, absorbPartial_pos s hpos, ← eq_partialBlock hm]
    rfl

/-- Settles O49: HFIN 32 absorbs the whole block as HUPD does, and HFIN 0 absorbs nothing more. -/
theorem hashSplit : Obligations.HashSplit := by
  intro s h
  refine ⟨_, _, _, exec_hupd_active h, exec_hfin_active h (by decide), exec_hfin_active h (by decide), ?_⟩
  have hfull : absorbPartial s (32 : Fin 64).val = absorb s s.hmsg 256 := by
    rw [absorbPartial_pos s (by decide)]
    exact congrArg (absorb s · 256) (partialBlock_full s.hmsg)
  rw [hfull]
  exact ⟨rfl, rfl, rfl, rfl⟩

/-- Settles O50: one lemma per command and state of the lifecycle. -/
theorem hashLifecycle : Obligations.HashLifecycle := fun s _ =>
  ⟨⟨_, exec_hinit s, rfl, rfl⟩,
    fun h => ⟨_, exec_hupd_active h, rfl, h⟩,
    fun h hn => ⟨_, exec_hfin_active h hn, rfl, rfl⟩,
    exec_hfin_tooLong,
    fun h => ⟨exec_hupd_notReady h, exec_hfin_notReady h⟩,
    fun h _ _ hi ht => final_kept_of_ne_hinit h hi ht⟩

end Sys2Proof.Machine
end

section
/-! SUPPORT. The ring GF(2)[x]/(f) of R12, in which congruent values are equal, and the curve's formulas in it (R300, R304 to
R306): they lead from points of the curve to points of the curve for every f, reducible or not. -/

namespace Sys2Proof.Machine

/-! ### The ring of residues -/

/-- Every polynomial over GF(2) stands for a number (R12). -/
theorem toPoly_surjective : Function.Surjective toPoly := by
  intro p
  induction p using Polynomial.induction_on' with
  | add p q hp hq =>
    obtain ⟨a, rfl⟩ := hp
    obtain ⟨b, rfl⟩ := hq
    exact ⟨a ^^^ b, toPoly_xor a b⟩
  | monomial n c =>
    obtain rfl | rfl : c = 0 ∨ c = 1 := by revert c; decide
    · exact ⟨0, by simp⟩
    · exact ⟨1 <<< n, by rw [toPoly_shiftLeft, toPoly_one, one_mul, Polynomial.X_pow_eq_monomial]⟩

/-- The residue of a value in GF(2)[x]/(f). -/
noncomputable def residue (f v : Nat) : AdjoinRoot (toPoly f) := AdjoinRoot.mk (toPoly f) (toPoly v)

section
variable (f a b : Nat)

@[simp] theorem residue_xor : residue f (a ^^^ b) = residue f a + residue f b := by
  simp only [residue, toPoly_xor, map_add]

@[simp] theorem residue_clmul : residue f (clmul a b) = residue f a * residue f b := by
  simp only [residue, toPoly_clmul, map_mul]

@[simp] theorem residue_one : residue f 1 = 1 := by
  simp only [residue, toPoly_one, map_one]

/-- Congruent values are those with one residue (R12). -/
theorem congruent_iff_residue : Congruent f a b ↔ residue f a = residue f b := by
  rw [residue, residue, AdjoinRoot.mk_eq_mk, CharTwo.sub_eq_add, ← toPoly_xor]
  constructor
  · rintro ⟨q, hq⟩
    exact ⟨toPoly q, by rw [hq, toPoly_clmul, mul_comm]⟩
  · rintro ⟨p, hp⟩
    obtain ⟨q, rfl⟩ := toPoly_surjective p
    exact ⟨q, toPoly_injective (by rw [hp, toPoly_clmul, mul_comm])⟩

theorem inverse_iff_residue : Inverse f a b ↔ residue f a * residue f b = 1 := by
  rw [Inverse, congruent_iff_residue, residue_clmul, residue_one]

end

/-! ### The formulas in a ring of characteristic 2 -/

section
variable {R : Type*} [CommRing R] [CharP R 2] {a b x y l x1 y1 x2 y2 u x3 y3 : R}

/-- R304: the negative of a point of the curve. -/
theorem curve_neg (h : y * y + x * y = x * x * x + a * (x * x) + b) :
    (x + y) * (x + y) + x * (x + y) = x * x * x + a * (x * x) + b := by
  linear_combination (norm := (ring_nf; reduce_mod_char!)) h

/-- R305: the tangent at (x, y), of slope λ, meets the curve again in (x3, x3 + y3). -/
theorem curve_dbl (h : y * y + x * y = x * x * x + a * (x * x) + b) (hl : (l + x) * x = y) (hx3 : x3 = l * l + l + a)
    (hy3 : y3 = x * x + (l + 1) * x3) : y3 * y3 + x3 * y3 = x3 * x3 * x3 + a * (x3 * x3) + b := by
  subst hx3 hy3 hl
  linear_combination (norm := (ring_nf; reduce_mod_char!)) h

/-- R306: the line of slope λ through two points of the curve meets it again in (x3, x3 + y3). On the line the curve's equation
is a cubic in x with the roots x1 and x2; since x1 + x2 has an inverse, the third root is x3. -/
theorem curve_add (h1 : y1 * y1 + x1 * y1 = x1 * x1 * x1 + a * (x1 * x1) + b)
    (h2 : y2 * y2 + x2 * y2 = x2 * x2 * x2 + a * (x2 * x2) + b) (hu : (x1 + x2) * u = 1) (hl : l * (x1 + x2) = y1 + y2)
    (hx3 : x3 = l * l + l + x1 + x2 + a) (hy3 : y3 = l * (x1 + x3) + x3 + y1) :
    y3 * y3 + x3 * y3 = x3 * x3 * x3 + a * (x3 * x3) + b := by
  have hy2 : y2 = l * (x1 + x2) + y1 := by
    linear_combination (norm := (ring_nf; reduce_mod_char!)) hl
  apply (IsUnit.of_mul_eq_one u hu).mul_left_cancel
  subst hx3 hy3 hy2
  linear_combination (norm := (ring_nf; reduce_mod_char!))
    (x2 + (l * l + l + x1 + x2 + a)) * h1 + (x1 + (l * l + l + x1 + x2 + a)) * h2

end

/-! ### The formulas modulo f -/

section
variable {f : Nat}

/-- GF(2)[x]/(f) has characteristic 2, unless f = 1 leaves 0 as its only residue. -/
theorem residue_charP_or_subsingleton (f : Nat) : CharP (AdjoinRoot (toPoly f)) 2 ∨ Subsingleton (AdjoinRoot (toPoly f)) := by
  rcases subsingleton_or_nontrivial (AdjoinRoot (toPoly f)) with hsub | hnontrivial
  · exact .inr hsub
  · exact .inl (charP_of_injective_algebraMap (algebraMap (ZMod 2) _).injective 2)

theorem curveEquation_iff_residue {a b x y : Nat} : CurveEquation f a b x y ↔
    residue f y * residue f y + residue f x * residue f y =
      residue f x * residue f x * residue f x + residue f a * (residue f x * residue f x) + residue f b := by
  simp [CurveEquation, congruent_iff_residue]

namespace CurveEquation
variable {a b x y x1 y1 x2 y2 l x3 y3 : Nat}

/-- NEG of a point of the curve is one (R304, R309). -/
theorem neg (h : CurveEquation f a b x y) : CurveEquation f a b x (x ^^^ y) := by
  rw [curveEquation_iff_residue] at *
  rcases residue_charP_or_subsingleton f with hchar | hsub
  · rw [residue_xor]
    exact curve_neg h
  · exact Subsingleton.elim _ _

/-- DBL of a point of the curve is one (R305, R309). -/
theorem dbl (h : CurveEquation f a b x y) (hd : DblFormula f a x y l x3 y3) : CurveEquation f a b x3 y3 := by
  obtain ⟨hl, hx3, hy3⟩ := hd
  simp only [congruent_iff_residue, residue_xor, residue_clmul, residue_one] at hl hx3 hy3
  rw [curveEquation_iff_residue] at *
  rcases residue_charP_or_subsingleton f with hchar | hsub
  · exact curve_dbl h hl hx3 hy3
  · exact Subsingleton.elim _ _

/-- ADD of two points of the curve is one, where the formulas apply (R306, R309). -/
theorem add (h1 : CurveEquation f a b x1 y1) (h2 : CurveEquation f a b x2 y2) (hinv : ∃ w, Inverse f (x1 ^^^ x2) w)
    (hd : AddFormula f a x1 y1 x2 y2 l x3 y3) : CurveEquation f a b x3 y3 := by
  obtain ⟨w, hw⟩ := hinv
  obtain ⟨hl, hx3, hy3⟩ := hd
  simp only [inverse_iff_residue, congruent_iff_residue, residue_xor, residue_clmul] at hw hl hx3 hy3
  rw [curveEquation_iff_residue] at *
  rcases residue_charP_or_subsingleton f with hchar | hsub
  · exact curve_add h1 h2 hw hl hx3 hy3
  · exact Subsingleton.elim _ _

end CurveEquation

namespace AddFormula
variable {a x1 y1 x2 y2 l x3 y3 l' x3' y3' : Nat}

/-- The formulas hold of the points exchanged: y3 does not depend on which of them it is computed from (R306, R316). -/
theorem swap (h : AddFormula f a x1 y1 x2 y2 l x3 y3) : AddFormula f a x2 y2 x1 y1 l x3 y3 := by
  obtain ⟨hl, hx3, hy3⟩ := h
  refine ⟨by rwa [Nat.xor_comm x2, Nat.xor_comm y2], by rwa [Nat.xor_right_comm _ x2], ?_⟩
  have hsum : clmul l (x2 ^^^ x3) ^^^ x3 ^^^ y2
      = clmul l (x1 ^^^ x3) ^^^ x3 ^^^ y1 ^^^ (clmul l (x1 ^^^ x2) ^^^ (y1 ^^^ y2)) := by
    apply toPoly_injective
    simp only [toPoly_xor, toPoly_clmul]
    linear_combination (norm := (ring_nf; reduce_mod_char!))
  have hzero : Congruent f 0 (clmul l (x1 ^^^ x2) ^^^ (y1 ^^^ y2)) := by
    simpa using hl.symm.xor (.refl f (y1 ^^^ y2))
  rw [hsum]
  simpa using hy3.xor hzero

/-- The formulas determine the point, where the slope's divisor has an inverse (R306). -/
theorem unique (hinv : ∃ w, Inverse f (x1 ^^^ x2) w) (h : AddFormula f a x1 y1 x2 y2 l x3 y3)
    (h' : AddFormula f a x1 y1 x2 y2 l' x3' y3') : Congruent f x3 x3' ∧ Congruent f y3 y3' := by
  obtain ⟨w, hw⟩ := hinv
  obtain ⟨hl, hx3, hy3⟩ := h
  obtain ⟨hl', hx3', hy3'⟩ := h'
  simp only [inverse_iff_residue, congruent_iff_residue, residue_xor, residue_clmul] at *
  have hslope : residue f l = residue f l' := (IsUnit.of_mul_eq_one _ hw).mul_right_cancel (hl.trans hl'.symm)
  have hx : residue f x3 = residue f x3' := by rw [hx3, hx3', hslope]
  exact ⟨hx, by rw [hy3, hy3', hslope, hx]⟩

end AddFormula

end

end Sys2Proof.Machine
end

section
/-! SUPPORT. The point functions of Machine/Curve.lean under a valid configuration: products and divisions modulo f, the
formulas of DBL and ADD where the division exists, MUL bit by bit, and that each keeps points on the curve (R303 to R307,
R309, R315). -/

namespace Sys2Proof.Machine

/-! ### Products and divisions modulo f -/

section
variable {s : State} {x y z w : Elem}

/-- An element register holds every canonical value (R155). -/
theorem ConfigOk.toNat_ofNat (hc : ConfigOk s) {v : Nat} (hv : v < 2 ^ s.curveM.toNat) : (BitVec.ofNat 512 v).toNat = v := by
  have hwidth : s.curveM.toNat ≤ 512 := hc.degree_le.trans (by decide)
  rw [BitVec.toNat_ofNat, Nat.mod_eq_of_lt (hv.trans_le (Nat.pow_le_pow_right Nat.two_pos hwidth))]

/-- R158: the canonical value of the product's class. -/
theorem ConfigOk.mulMod_spec (hc : ConfigOk s) (x y : Elem) :
    (mulMod s.cf x y).toNat < 2 ^ s.curveM.toNat
      ∧ Congruent s.cf.toNat (mulMod s.cf x y).toNat (clmul x.toNat y.toNat) := by
  obtain ⟨hlt, hcong⟩ := hc.pmod_cf (clmul x.toNat y.toNat)
  rw [mulMod, hc.toNat_ofNat hlt]
  exact ⟨hlt, hcong.symm⟩

theorem ConfigOk.mulMod_lt (hc : ConfigOk s) (x y : Elem) : (mulMod s.cf x y).toNat < 2 ^ s.curveM.toNat :=
  (hc.mulMod_spec x y).1

theorem ConfigOk.mulMod_congruent (hc : ConfigOk s) (x y : Elem) :
    Congruent s.cf.toNat (mulMod s.cf x y).toNat (clmul x.toNat y.toNat) :=
  (hc.mulMod_spec x y).2

theorem ConfigOk.sqrMod_lt (hc : ConfigOk s) (x : Elem) : (sqrMod s.cf x).toNat < 2 ^ s.curveM.toNat :=
  (hc.mulMod_spec x x).1

theorem ConfigOk.sqrMod_congruent (hc : ConfigOk s) (x : Elem) :
    Congruent s.cf.toNat (sqrMod s.cf x).toNat (clmul x.toNat x.toNat) :=
  (hc.mulMod_spec x x).2

/-- The sum of canonical elements is canonical (R157). -/
theorem toNat_xor_lt {m : Nat} (hx : x.toNat < 2 ^ m) (hy : y.toNat < 2 ^ m) : (x ^^^ y).toNat < 2 ^ m := by
  rw [BitVec.toNat_xor]
  exact Nat.xor_lt_two_pow hx hy

theorem Congruent.toNat_xor {f a b : Nat} (hx : Congruent f x.toNat a) (hy : Congruent f y.toNat b) :
    Congruent f (x ^^^ y).toNat (a ^^^ b) := by
  rw [BitVec.toNat_xor]
  exact hx.xor hy

/-- Canonical elements of one class are equal (R155). -/
theorem ConfigOk.eq_iff_congruent (hc : ConfigOk s) (hx : x.toNat < 2 ^ s.curveM.toNat) (hy : y.toNat < 2 ^ s.curveM.toNat) :
    x = y ↔ Congruent s.cf.toNat x.toNat y.toNat := by
  constructor
  · rintro rfl
    exact .refl _ _
  · intro h
    rw [← hc.log2_cf] at hx hy
    exact BitVec.eq_of_toNat_eq (h.eq_of_lt hc.cf_ne_zero hx hy)

theorem ConfigOk.ne_zero_of_inverse (hc : ConfigOk s) (h : ∃ v, Inverse s.cf.toNat x.toNat v) : x ≠ 0#512 := by
  rintro rfl
  obtain ⟨v, hv⟩ := h
  have hdeg : s.cf.toNat.log2 ≠ 0 := hc.log2_cf ▸ Nat.ne_of_gt (Nat.lt_of_lt_of_le Nat.two_pos hc.degree_ge)
  exact hv.ne_zero hdeg BitVec.toNat_zero

/-- R307: the quotient, where the divisor has an inverse. -/
theorem ConfigOk.exists_divMod (hc : ConfigOk s) (h : ∃ v, Inverse s.cf.toNat w.toNat v) (z : Elem) :
    ∃ q, divMod s.cf z w = some q ∧ q.toNat < 2 ^ s.curveM.toNat
      ∧ Congruent s.cf.toNat (clmul q.toNat w.toNat) z.toNat := by
  obtain ⟨v, hv⟩ := h
  obtain ⟨hlt, hcong⟩ := hc.pmod_cf v
  have hinv : Inverse s.cf.toNat w.toNat (pmod v s.cf.toNat) := (hcong.symm.mul_left w.toNat).trans hv
  have hp : pinv w.toNat s.cf.toNat = some (pmod v s.cf.toNat) :=
    (pinv_eq_some_iff hc.cf_ne_zero).mpr ⟨hc.log2_cf.symm ▸ hlt, hinv⟩
  refine ⟨_, by rw [divMod, invMod, hp, Option.map_some, Option.map_some], hc.mulMod_lt _ _, ?_⟩
  refine ((hc.mulMod_congruent _ _).mul_right w.toNat).trans ?_
  rw [hc.toNat_ofNat hlt, clmul_assoc, clmul_comm _ w.toNat]
  simpa [clmul_comm _ 1] using Congruent.mul_left hinv z.toNat

/-- R307: a division by a value with no inverse fails. -/
theorem ConfigOk.divMod_eq_none (hc : ConfigOk s) (h : ∀ v, ¬Inverse s.cf.toNat w.toNat v) (z : Elem) :
    divMod s.cf z w = none := by
  have hp : pinv w.toNat s.cf.toNat = none := (pinv_eq_none_iff hc.cf_ne_zero).mpr fun r _ => h r
  rw [divMod, invMod, hp, Option.map_none, Option.map_none]

/-- R303: the on-curve predicate of canonical elements is the equation modulo f. -/
theorem ConfigOk.onCurve_iff (hc : ConfigOk s) (x y : Elem) : onCurve s (.affine x y) = true ↔
    CurveEquation s.cf.toNat s.ca.toNat s.cb.toNat x.toNat y.toNat := by
  have hxx := hc.sqrMod_congruent x
  have hleft := (hc.sqrMod_congruent y).toNat_xor (hc.mulMod_congruent x y)
  have hcube := (hc.mulMod_congruent (sqrMod s.cf x) x).trans (hxx.mul_right x.toNat)
  have hsquare := (hc.mulMod_congruent s.ca (sqrMod s.cf x)).trans (hxx.mul_left s.ca.toNat)
  have hright := (hcube.toNat_xor hsquare).toNat_xor (.refl s.cf.toNat s.cb.toNat)
  rw [onCurve, beq_iff_eq, hc.eq_iff_congruent (toNat_xor_lt (hc.sqrMod_lt y) (hc.mulMod_lt x y))
    (toNat_xor_lt (toNat_xor_lt (hc.mulMod_lt _ x) (hc.mulMod_lt s.ca _)) hc.b_canonical)]
  exact ⟨fun h => hleft.symm.trans (h.trans hright), fun h => hleft.trans (h.trans hright.symm)⟩

end

/-! ### DBL and ADD, case by case -/

@[simp] theorem dblPoint_infinity (f a : Elem) : dblPoint f a .infinity = some .infinity := rfl

@[simp] theorem dblPoint_zero (f a y : Elem) : dblPoint f a (.affine 0#512 y) = some .infinity := by
  simp [dblPoint]

@[simp] theorem addPoint_infinity_left (f a : Elem) (q : Point) : addPoint f a .infinity q = some q := rfl

@[simp] theorem addPoint_infinity_right (f a : Elem) (p : Point) : addPoint f a p .infinity = some p := by
  cases p <;> rfl

/-- R306: two points with one x and two y are opposite. -/
theorem addPoint_opposite (f a x : Elem) {y1 y2 : Elem} (h : y1 ≠ y2) :
    addPoint f a (.affine x y1) (.affine x y2) = some .infinity := by
  simp [addPoint, h]

section
variable {s : State} {x y x1 y1 x2 y2 : Elem}

/-- R305: the formulas of DBL hold where x has an inverse. -/
theorem ConfigOk.exists_dblPoint (hc : ConfigOk s) (hx : x.toNat < 2 ^ s.curveM.toNat)
    (hinv : ∃ w, Inverse s.cf.toNat x.toNat w) :
    ∃ l x3 y3 : Elem, l.toNat < 2 ^ s.curveM.toNat ∧ x3.toNat < 2 ^ s.curveM.toNat ∧ y3.toNat < 2 ^ s.curveM.toNat
      ∧ DblFormula s.cf.toNat s.ca.toNat x.toNat y.toNat l.toNat x3.toNat y3.toNat
      ∧ dblPoint s.cf s.ca (.affine x y) = some (.affine x3 y3) := by
  obtain ⟨q, hq, hqlt, hqx⟩ := hc.exists_divMod hinv y
  have hl := toNat_xor_lt hx hqlt
  refine ⟨x ^^^ q, _, _, hl, toNat_xor_lt (toNat_xor_lt (hc.sqrMod_lt _) hl) hc.a_canonical,
    toNat_xor_lt (hc.sqrMod_lt x) (hc.mulMod_lt _ _), ⟨?_, ?_, ?_⟩,
    by rw [dblPoint, if_neg (hc.ne_zero_of_inverse hinv), hq, Option.map_some]⟩
  · have hslope : x ^^^ q ^^^ x = q := by
      rw [BitVec.xor_comm x q, BitVec.xor_assoc, BitVec.xor_self, BitVec.xor_zero]
    rwa [← BitVec.toNat_xor, hslope]
  · exact ((hc.sqrMod_congruent _).toNat_xor (.refl _ _)).toNat_xor (.refl _ _)
  · have hone : (x ^^^ q ^^^ 1#512).toNat = (x ^^^ q).toNat ^^^ 1 := by
      rw [BitVec.toNat_xor _ 1#512, BitVec.toNat_one (by decide)]
    exact (hc.sqrMod_congruent x).toNat_xor (hone ▸ hc.mulMod_congruent _ _)

/-- R305, R307: DBL fails where x is neither 0 nor has an inverse. -/
theorem ConfigOk.dblPoint_eq_none (hc : ConfigOk s) (h0 : x ≠ 0#512) (hinv : ∀ w, ¬Inverse s.cf.toNat x.toNat w)
    (y : Elem) : dblPoint s.cf s.ca (.affine x y) = none := by
  rw [dblPoint, if_neg h0, hc.divMod_eq_none hinv, Option.map_none]

/-- R306: the formulas of ADD hold where x1 + x2 has an inverse. -/
theorem ConfigOk.exists_addPoint (hc : ConfigOk s) (hx1 : x1.toNat < 2 ^ s.curveM.toNat)
    (hy1 : y1.toNat < 2 ^ s.curveM.toNat) (hx2 : x2.toNat < 2 ^ s.curveM.toNat)
    (hinv : ∃ w, Inverse s.cf.toNat (x1 ^^^ x2).toNat w) :
    ∃ l x3 y3 : Elem, l.toNat < 2 ^ s.curveM.toNat ∧ x3.toNat < 2 ^ s.curveM.toNat ∧ y3.toNat < 2 ^ s.curveM.toNat
      ∧ AddFormula s.cf.toNat s.ca.toNat x1.toNat y1.toNat x2.toNat y2.toNat l.toNat x3.toNat y3.toNat
      ∧ addPoint s.cf s.ca (.affine x1 y1) (.affine x2 y2) = some (.affine x3 y3) := by
  obtain ⟨l, hl, hllt, hslope⟩ := hc.exists_divMod hinv (y1 ^^^ y2)
  have hne : x1 ≠ x2 := fun h => hc.ne_zero_of_inverse hinv (by rw [h, BitVec.xor_self])
  have hx3 := toNat_xor_lt (toNat_xor_lt (toNat_xor_lt (toNat_xor_lt (hc.sqrMod_lt l) hllt) hx1) hx2) hc.a_canonical
  refine ⟨l, _, _, hllt, hx3, toNat_xor_lt (toNat_xor_lt (hc.mulMod_lt _ _) hx3) hy1, ⟨?_, ?_, ?_⟩,
    by rw [addPoint, if_neg (fun h => hne h.1), if_neg hne, hl, Option.map_some]⟩
  · rwa [← BitVec.toNat_xor, ← BitVec.toNat_xor]
  · exact ((((hc.sqrMod_congruent l).toNat_xor (.refl _ _)).toNat_xor (.refl _ _)).toNat_xor (.refl _ _)).toNat_xor
      (.refl _ _)
  · rw [← BitVec.toNat_xor x1]
    exact ((hc.mulMod_congruent l _).toNat_xor (.refl _ _)).toNat_xor (.refl _ _)

/-- R306, R307: ADD fails where x1 + x2 is neither 0 nor has an inverse. -/
theorem ConfigOk.addPoint_eq_none (hc : ConfigOk s) (hne : x1 ≠ x2)
    (hinv : ∀ w, ¬Inverse s.cf.toNat (x1 ^^^ x2).toNat w) (y1 y2 : Elem) :
    addPoint s.cf s.ca (.affine x1 y1) (.affine x2 y2) = none := by
  rw [addPoint, if_neg (fun h => hne h.1), if_neg hne, hc.divMod_eq_none hinv, Option.map_none]

end

/-! ### Points that pass the checks -/

/-- A point value that a source register may hold (R301, R308): O, or a canonical pair on the curve. -/
def PointValid (s : State) : Point → Prop
  | .infinity => True
  | .affine x y => x.toNat < 2 ^ s.curveM.toNat ∧ y.toNat < 2 ^ s.curveM.toNat
      ∧ CurveEquation s.cf.toNat s.ca.toNat s.cb.toNat x.toNat y.toNat

section
variable {s : State} {p q r : Point}

/-- The point that a good source register holds (R308). -/
theorem pointOk_iff_pointValid (s : State) (k : PReg) : PointOk s k ↔ PointValid s (s.getP k) := by
  unfold PointOk State.getP
  cases s.getInf k <;> simp [PointValid]

/-- R309: NEG keeps points on the curve. -/
theorem PointValid.neg (hp : PointValid s p) : PointValid s (negPoint p) := by
  cases p with
  | infinity => exact hp
  | affine x y =>
    obtain ⟨hx, hy, hcurve⟩ := hp
    exact ⟨hx, toNat_xor_lt hx hy, BitVec.toNat_xor x y ▸ hcurve.neg⟩

/-- R309: DBL keeps points on the curve. -/
theorem PointValid.dbl (hc : ConfigOk s) (hp : PointValid s p) (h : dblPoint s.cf s.ca p = some q) : PointValid s q := by
  cases p with
  | infinity => exact Option.some.inj h ▸ hp
  | affine x y =>
    obtain ⟨hx, hy, hcurve⟩ := hp
    by_cases h0 : x = 0#512
    · rw [h0, dblPoint_zero] at h
      exact Option.some.inj h ▸ trivial
    · by_cases hinv : ∃ w, Inverse s.cf.toNat x.toNat w
      · obtain ⟨l, x3, y3, -, hx3, hy3, hformula, hdbl⟩ := hc.exists_dblPoint (y := y) hx hinv
        rw [hdbl] at h
        exact Option.some.inj h ▸ ⟨hx3, hy3, hcurve.dbl hformula⟩
      · rw [hc.dblPoint_eq_none h0 (not_exists.mp hinv)] at h
        cases h

/-- R309: ADD keeps points on the curve. -/
theorem PointValid.add (hc : ConfigOk s) (hp : PointValid s p) (hq : PointValid s q)
    (h : addPoint s.cf s.ca p q = some r) : PointValid s r := by
  cases p with
  | infinity => exact Option.some.inj h ▸ hq
  | affine x1 y1 =>
    cases q with
    | infinity => exact Option.some.inj h ▸ hp
    | affine x2 y2 =>
      by_cases hx : x1 = x2
      · subst hx
        by_cases hy : y1 = y2
        · rw [hy, addPoint_self] at h
          exact hq.dbl hc h
        · rw [addPoint_opposite _ _ _ hy] at h
          exact Option.some.inj h ▸ trivial
      · by_cases hinv : ∃ w, Inverse s.cf.toNat (x1 ^^^ x2).toNat w
        · obtain ⟨hx1, hy1, hcurve1⟩ := hp
          obtain ⟨hx2, -, hcurve2⟩ := hq
          obtain ⟨l, x3, y3, -, hx3, hy3, hformula, hadd⟩ := hc.exists_addPoint (y2 := y2) hx1 hy1 hx2 hinv
          rw [hadd] at h
          exact Option.some.inj h ▸ ⟨hx3, hy3, hcurve1.add hcurve2 (BitVec.toNat_xor x1 x2 ▸ hinv) hformula⟩
        · rw [hc.addPoint_eq_none hx (not_exists.mp hinv)] at h
          cases h

/-- R316: ADD commutes. Where the formulas apply, both orders satisfy them, and they determine the point. -/
theorem ConfigOk.addPoint_comm (hc : ConfigOk s) (hp : PointValid s p) (hq : PointValid s q) :
    addPoint s.cf s.ca p q = addPoint s.cf s.ca q p := by
  cases p with
  | infinity => simp
  | affine x1 y1 =>
    cases q with
    | infinity => simp
    | affine x2 y2 =>
      by_cases hx : x1 = x2
      · subst hx
        by_cases hy : y1 = y2
        · rw [hy]
        · rw [addPoint_opposite _ _ _ hy, addPoint_opposite _ _ _ (Ne.symm hy)]
      · by_cases hinv : ∃ w, Inverse s.cf.toNat (x1 ^^^ x2).toNat w
        · obtain ⟨hx1, hy1, -⟩ := hp
          obtain ⟨hx2, hy2, -⟩ := hq
          have hinv' := BitVec.xor_comm x1 x2 ▸ hinv
          obtain ⟨l, x3, y3, -, hx3, hy3, hformula, hadd⟩ := hc.exists_addPoint (y2 := y2) hx1 hy1 hx2 hinv
          obtain ⟨l', x3', y3', -, hx3', hy3', hformula', hadd'⟩ := hc.exists_addPoint (y2 := y1) hx2 hy2 hx1 hinv'
          obtain ⟨hxx, hyy⟩ := hformula.unique (BitVec.toNat_xor x1 x2 ▸ hinv) hformula'.swap
          rw [hadd, hadd', (hc.eq_iff_congruent hx3 hx3').mpr hxx, (hc.eq_iff_congruent hy3 hy3').mpr hyy]
        · have hnone := not_exists.mp hinv
          rw [hc.addPoint_eq_none hx hnone, hc.addPoint_eq_none (Ne.symm hx) (BitVec.xor_comm x1 x2 ▸ hnone)]

end

/-! ### MUL bit by bit -/

/-- One turn of MUL's loop: double, and add P where the scalar's bit is 1 (R315). -/
def mulStep (f a : Elem) (p : Point) (b : Bool) (q : Point) : Option Point :=
  (dblPoint f a q).bind fun q2 => if b then addPoint f a q2 p else some q2

section
variable (f a : Elem) (k : Nat) (p : Point)

theorem mulLoop_succ (i : Nat) (q : Point) :
    mulLoop f a k p (i + 1) q = (mulStep f a p (k.testBit i) q).bind (mulLoop f a k p i) := by
  rw [mulLoop, mulStep]
  cases dblPoint f a q with
  | none => rfl
  | some q2 =>
    cases k.testBit i with
    | false => rfl
    | true =>
      simp only [if_true, Option.bind_some]
      cases addPoint f a q2 p <;> rfl

/-- The loop over one bit more of k runs over the bits of k / 2, and ends with bit 0 of k. -/
theorem mulLoop_succ_eq_half (t : Nat) (q : Point) :
    mulLoop f a k p (t + 1) q = (mulLoop f a (k / 2) p t q).bind (mulStep f a p (k.testBit 0)) := by
  induction t generalizing q with
  | zero =>
    rw [mulLoop_succ]
    exact Option.bind_fun_some _
  | succ t ih =>
    rw [mulLoop_succ, mulLoop_succ f a (k / 2), Option.bind_assoc, Nat.testBit_succ]
    exact congrArg _ (funext ih)

/-- R315: MUL over one bit more is the double of MUL over the higher bits, plus P if the low bit is 1. -/
theorem mulPoint_succ (t : Nat) :
    mulPoint f a (t + 1) k p = (mulPoint f a t (k / 2) p).bind (mulStep f a p (k.testBit 0)) :=
  mulLoop_succ_eq_half f a k p t .infinity

/-- R316: MUL(0, P) = O. -/
theorem mulPoint_zero (t : Nat) : mulPoint f a t 0 p = some .infinity := by
  induction t with
  | zero => rfl
  | succ t ih =>
    rw [mulPoint_succ, Nat.zero_div, ih]
    rfl

/-- R316: MUL(k, O) = O. -/
theorem mulPoint_infinity (t : Nat) : mulPoint f a t k .infinity = some .infinity := by
  induction t generalizing k with
  | zero => rfl
  | succ t ih =>
    rw [mulPoint_succ, ih]
    cases k.testBit 0 <;> rfl

/-- MUL(1, P) = P. -/
theorem mulPoint_one (t : Nat) : mulPoint f a (t + 1) 1 p = some p := by
  rw [mulPoint_succ, show 1 / 2 = 0 from rfl, mulPoint_zero]
  rfl

end

/-- R309: MUL keeps points on the curve. -/
theorem PointValid.mul {s : State} (hc : ConfigOk s) {p : Point} (hp : PointValid s p) {t k : Nat} {q : Point}
    (h : mulPoint s.cf s.ca t k p = some q) : PointValid s q := by
  induction t generalizing k q with
  | zero => exact Option.some.inj h ▸ trivial
  | succ t ih =>
    rw [mulPoint_succ] at h
    obtain ⟨q0, h0, hstep⟩ := Option.bind_eq_some_iff.mp h
    obtain ⟨q2, h2, hadd⟩ := Option.bind_eq_some_iff.mp hstep
    have hvalid : PointValid s q2 := (ih h0).dbl hc h2
    split at hadd
    · exact hvalid.add hc hp hadd
    · exact Option.some.inj hadd ▸ hvalid

end Sys2Proof.Machine
end

section
/-! SUPPORT. The point commands: PWRITE (R302), the checks of the sources (R308), each command after its checks, and the
statements on the curve. -/

namespace Sys2Proof.Machine

/-! ### PWRITE -/

/-- The three writes of PWRITE (R302). -/
def State.writeCoords (s : State) (d : PReg) (x y : Elem) (inf : Bool) : State :=
  ((s.setE (xReg d) x).setE (yReg d) y).setInf d inf

section
variable (s : State) (d : PReg) (x y : Elem) (inf : Bool)

theorem setP_infinity : s.setP d .infinity = s.writeCoords d 0#512 0#512 true := rfl

theorem setP_affine : s.setP d (.affine x y) = s.writeCoords d x y false := rfl

@[simp] theorem getE_writeCoords_xReg : (s.writeCoords d x y inf).getE (xReg d) = x := by
  rw [State.writeCoords, getE_setInf, getE_setE_ne _ (xReg_ne_yReg d d), getE_setE_same]

@[simp] theorem getE_writeCoords_yReg : (s.writeCoords d x y inf).getE (yReg d) = y := by
  rw [State.writeCoords, getE_setInf, getE_setE_same]

theorem getE_writeCoords_ne {i : EReg} (hx : i ≠ xReg d) (hy : i ≠ yReg d) :
    (s.writeCoords d x y inf).getE i = s.getE i := by
  rw [State.writeCoords, getE_setInf, getE_setE_ne _ hy, getE_setE_ne _ hx]

@[simp] theorem getInf_writeCoords_same : (s.writeCoords d x y inf).getInf d = inf := getInf_setInf_same _ d inf

theorem getInf_writeCoords_ne {k : PReg} (h : k ≠ d) : (s.writeCoords d x y inf).getInf k = s.getInf k :=
  getInf_setInf_ne _ h inf

/-- A point register reads as the point written to it (R301, R302). -/
@[simp] theorem getP_setP_same (q : Point) : (s.setP d q).getP d = q := by
  cases q with
  | infinity => rw [setP_infinity, State.getP, getInf_writeCoords_same, if_pos rfl]
  | affine x y => simp [setP_affine, State.getP]

end

/-! ### The checks of the sources -/

section
variable {s : State} {k : PReg}

theorem getP_of_inf (h : s.getInf k = true) : s.getP k = .infinity := if_pos h

theorem getP_of_not_inf (h : s.getInf k = false) : s.getP k = .affine (s.getE (xReg k)) (s.getE (yReg k)) := by
  simp [State.getP, h]

/-- A source is good, or has a coordinate that is not canonical, or is off the curve (R308). -/
theorem pointOk_or_notCanonical_or_offCurve (s : State) (k : PReg) :
    PointOk s k ∨ PointNotCanonical s k ∨ PointOffCurve s k := by
  unfold PointOk PointNotCanonical PointOffCurve
  cases s.getInf k <;> tauto

theorem pointCheck_notCanonical (h : PointNotCanonical s k) : pointCheck s k = some .invalidOperand := by
  rcases pointCheck_cases s k with ⟨hinf, -⟩ | ⟨-, hcheck⟩ | ⟨-, hx, hy, -⟩
  · exact absurd (hinf.symm.trans h.1) (by decide)
  · exact hcheck
  · exact absurd ⟨hx, hy⟩ h.2

theorem pointCheck_offCurve (hc : ConfigOk s) (h : PointOffCurve s k) : pointCheck s k = some .pointNotOnCurve := by
  obtain ⟨hinf, hx, hy, hcurve⟩ := h
  rcases pointCheck_cases s k with ⟨hinf', -⟩ | ⟨hnot, -⟩ | ⟨-, -, -, hcheck⟩
  · exact absurd (hinf'.symm.trans hinf) (by decide)
  · exact absurd ⟨hx, hy⟩ hnot.2
  · rw [hcheck, if_neg (mt (hc.onCurve_iff _ _).mp hcurve)]

theorem pointCheck_ok (hc : ConfigOk s) (h : PointOk s k) : pointCheck s k = none := by
  rcases pointCheck_cases s k with ⟨-, hcheck⟩ | ⟨hnot, -⟩ | ⟨hinf, -, -, hcheck⟩
  · exact hcheck
  · rcases h with hinf | ⟨hx, hy, -⟩
    · exact absurd (hinf.symm.trans hnot.1) (by decide)
    · exact absurd ⟨hx, hy⟩ hnot.2
  · rcases h with hinf' | ⟨-, -, hcurve⟩
    · exact absurd (hinf'.symm.trans hinf) (by decide)
    · rw [hcheck, if_pos ((hc.onCurve_iff _ _).mpr hcurve)]

/-- The two outcomes of the check of one source (R308). -/
theorem pointCheck_ok_or_error (hc : ConfigOk s) (k : PReg) :
    PointOk s k ∨ ∃ code, code ≠ .ok ∧ pointCheck s k = some code := by
  rcases pointOk_or_notCanonical_or_offCurve s k with h | h | h
  · exact .inl h
  · exact .inr ⟨_, by decide, pointCheck_notCanonical h⟩
  · exact .inr ⟨_, by decide, pointCheck_offCurve hc h⟩

theorem pointChecks_ok (hl : s.lock = true) (hc : ConfigOk s) {ks : List PReg} (h : ∀ k ∈ ks, PointOk s k) :
    pointChecks s ks = none := by
  rw [pointChecks_locked s hl, List.findSome?_eq_none_iff]
  exact fun k hk => pointCheck_ok hc (h k hk)

/-- An error of the first source is the command's error (R308). -/
theorem pointChecks_cons_of_error (hl : s.lock = true) {code : ErrCode} (h : pointCheck s k = some code) (ks : List PReg) :
    pointChecks s (k :: ks) = some code := by
  rw [pointChecks_locked s hl, List.findSome?_cons, h]

/-- The second source is checked after a good first source (R308). -/
theorem pointChecks_pair_of_error (hl : s.lock = true) (hc : ConfigOk s) (hk : PointOk s k) {k2 : PReg} {code : ErrCode}
    (h : pointCheck s k2 = some code) : pointChecks s [k, k2] = some code := by
  rw [pointChecks_locked s hl, List.findSome?_cons, pointCheck_ok hc hk, List.findSome?_cons, h]

/-- R313: PCHK's answer is whether the point would pass the checks. -/
theorem pchkAnswer_iff (hc : ConfigOk s) (k : PReg) : pchkAnswer s k = true ↔ PointOk s k := by
  unfold pchkAnswer PointOk
  cases s.getInf k with
  | true => simp
  | false => simp [State.degM, ← isCanonical_iff, ← hc.onCurve_iff, and_assoc]

end

/-! ### The commands after their checks -/

section
variable {s : State} (pd k k2 : PReg) (r : EReg)

/-- A computed point is written to PD (R302). -/
theorem finish_writePoint_some (s : State) (q : Point) :
    finish s (writePoint s pd (some q)) = .next (succeeded (s.setP pd q)) :=
  finish_ok s _

/-- A failed division is INVALID_OPERAND (R307). -/
theorem finish_writePoint_none (s : State) : finish s (writePoint s pd none) = .next (failed s .invalidOperand) :=
  finish_error s (by decide)

section
variable {k k2} {code : ErrCode} (hne : code ≠ .ok)
include hne

theorem exec_padd_of_error (h : pointChecks s [k, k2] = some code) : exec (.padd pd k k2) s = .next (failed s code) := by
  simp only [exec, execPadd, h, finish_error s hne]

/-- An error of the checks of the one source, or of the first of two, is the command's (R308). -/
theorem exec_pointOp_of_error (h : ∀ ks, pointChecks s (k :: ks) = some code) (k2 : PReg) :
    ∀ i ∈ [Instr.padd pd k k2, .pdbl pd k, .pneg pd k, .smul pd k r], exec i s = .next (failed s code) := by
  simp only [List.forall_mem_cons, List.not_mem_nil, false_imp_iff, implies_true, and_true]
  refine ⟨exec_padd_of_error pd hne (h [k2]), ?_, ?_, ?_⟩
  · simp only [exec, execPdbl, h, finish_error s hne]
  · simp only [exec, execPneg, h, finish_error s hne]
  · simp only [exec, execSmul, h, finish_error s hne]

end

variable (hl : s.lock = true) (hc : ConfigOk s)
include hl hc

theorem exec_padd {k k2} (h1 : PointOk s k) (h2 : PointOk s k2) :
    exec (.padd pd k k2) s = finish s (writePoint s pd (addPoint s.cf s.ca (s.getP k) (s.getP k2))) := by
  have hchecks : pointChecks s [k, k2] = none := pointChecks_ok hl hc (by simp [h1, h2])
  simp only [exec, execPadd, hchecks]

variable {k} (hk : PointOk s k)
include hk

theorem pointChecks_single : pointChecks s [k] = none := pointChecks_ok hl hc (by simpa using hk)

theorem exec_pdbl : exec (.pdbl pd k) s = finish s (writePoint s pd (dblPoint s.cf s.ca (s.getP k))) := by
  simp only [exec, execPdbl, pointChecks_single hl hc hk]

theorem exec_pneg : exec (.pneg pd k) s = .next (succeeded (s.setP pd (negPoint (s.getP k)))) := by
  simp only [exec, execPneg, pointChecks_single hl hc hk, finish_ok]

theorem exec_smul_of_ge (hr : s.cn.toNat ≤ (s.getE r).toNat) : exec (.smul pd k r) s = .next (failed s .invalidOperand) := by
  simp only [exec, execSmul, pointChecks_single hl hc hk, ge_iff_le, if_pos hr]
  exact finish_error s (by decide)

theorem exec_smul_of_lt (hr : (s.getE r).toNat < s.cn.toNat) : exec (.smul pd k r) s =
    finish s (writePoint s pd (mulPoint s.cf s.ca (s.cn.toNat.log2 + 1) (s.getE r).toNat (s.getP k))) := by
  have hcn : s.cn.toNat ≠ 0 := by omega
  simp only [exec, execSmul, pointChecks_single hl hc hk, ge_iff_le, if_neg (Nat.not_le.mpr hr), bitlen_of_ne_zero hcn]

end

/-! ### What a completion leaves -/

section
variable (s : State) (pd : PReg) {r : Option Point}

/-- The two ends of a command after its checks (R307). -/
theorem finish_writePoint_err (r : Option Point) :
    ∃ t, finish s (writePoint s pd r) = .next t ∧ (t.err = .ok ∨ (t.err = .invalidOperand ∧ r = none)) := by
  cases r with
  | none => exact ⟨_, finish_writePoint_none pd s, .inr ⟨rfl, rfl⟩⟩
  | some q => exact ⟨_, finish_writePoint_some pd s q, .inl rfl⟩

/-- A good point written to PD passes the checks there. -/
theorem pointOk_succeeded_setP {q : Point} (hq : PointValid s q) : PointOk (succeeded (s.setP pd q)) pd := by
  have hsame : PointValid (s.setP pd q) q := by
    cases q <;> exact hq
  exact (pointOk_iff_pointValid (s.setP pd q) pd).mpr ((getP_setP_same s pd q).symm ▸ hsame)

/-- A command whose result is a good point, where there is one, leaves a good point in PD when it completes with OK (R309). -/
theorem finish_writePoint_pointOk (h : ∀ q, r = some q → PointValid s q) :
    ∃ t, finish s (writePoint s pd r) = .next t ∧ (t.err = .ok → PointOk t pd) := by
  cases r with
  | none => exact ⟨_, finish_writePoint_none pd s, fun herr => by cases herr⟩
  | some q => exact ⟨_, finish_writePoint_some pd s q, fun _ => pointOk_succeeded_setP s pd (h q rfl)⟩

end

/-! ### The statements -/

/-- Settles O52: PWRITE is three writes, each of its own register. -/
theorem pointWrite : Obligations.PointWrite := by
  intro s d q
  have hwrites (x y : Elem) (inf : Bool) :
      ((s.writeCoords d x y inf).getE (xReg d), (s.writeCoords d x y inf).getE (yReg d),
          (s.writeCoords d x y inf).getInf d) = (x, y, inf)
        ∧ (∀ i, i ≠ xReg d → i ≠ yReg d → (s.writeCoords d x y inf).getE i = s.getE i)
        ∧ (∀ k, k ≠ d → (s.writeCoords d x y inf).getInf k = s.getInf k)
        ∧ { s.writeCoords d x y inf with e := s.e, pinf := s.pinf } = s :=
    ⟨by simp, fun _ => getE_writeCoords_ne s d x y inf, fun _ => getInf_writeCoords_ne s d x y inf, rfl⟩
  cases q with
  | infinity => exact hwrites 0#512 0#512 true
  | affine x y => exact hwrites x y false

/-- Settles O53: PCHK answers whether the point would pass the checks. -/
theorem pchkAnswers : Obligations.PchkAnswers := by
  refine fun s k => ⟨fun hl hc => ⟨pchkAnswer s k, pchkAnswer_iff hc k, ?_⟩, fun hl => ?_⟩
  · simp [exec, execPchk, hl]
  · simp [exec, execPchk, hl, finish_error s (code := .notReady) (by decide)]

/-- Settles O58: the loop over one bit more, with 2k + b for the scalar. -/
theorem smulDoubleAndAdd : Obligations.SmulDoubleAndAdd := by
  refine ⟨fun _ _ _ _ => rfl, fun f a t k b p => ?_⟩
  have hhalf : (2 * k + if b then 1 else 0) / 2 = k := by
    split <;> omega
  have hbit : (2 * k + if b then 1 else 0).testBit 0 = b := by
    cases b <;> simp
  rw [mulPoint_succ, hhalf, hbit]
  rfl

/-- Settles O54: the checks give the first failing source's error, and after them only a division or the scalar can fail. -/
theorem pointErrors : Obligations.PointErrors := by
  have hio : ErrCode.invalidOperand ≠ .ok := by decide
  have hcurve : ErrCode.pointNotOnCurve ≠ .ok := by decide
  intro s pd k k2 r
  refine ⟨fun hl => exec_pointOp_of_error pd r (by decide) (fun ks => pointChecks_unlocked s hl _) k2,
    fun hl hc h => exec_pointOp_of_error pd r hio (pointChecks_cons_of_error hl (pointCheck_notCanonical h)) k2,
    fun hl hc h => exec_pointOp_of_error pd r hcurve (pointChecks_cons_of_error hl (pointCheck_offCurve hc h)) k2,
    fun hl hc hk h => exec_padd_of_error pd hio (pointChecks_pair_of_error hl hc hk (pointCheck_notCanonical h)),
    fun hl hc hk h => exec_padd_of_error pd hcurve (pointChecks_pair_of_error hl hc hk (pointCheck_offCurve hc h)),
    fun hl hc hk hk2 => exec_padd pd hl hc hk hk2 ▸ finish_writePoint_err s pd _,
    fun hl hc hk => ⟨⟨_, exec_pneg pd hl hc hk⟩, exec_pdbl pd hl hc hk ▸ finish_writePoint_err s pd _, ?_⟩⟩
  rcases Nat.lt_or_ge (s.getE r).toNat s.cn.toNat with hr | hr
  · obtain ⟨t, ht, herr⟩ := finish_writePoint_err s pd
      (mulPoint s.cf s.ca (s.cn.toNat.log2 + 1) (s.getE r).toNat (s.getP k))
    exact ⟨t, (exec_smul_of_lt pd r hl hc hk hr).trans ht, herr.imp_right (And.imp_right .inr)⟩
  · exact ⟨_, exec_smul_of_ge pd r hl hc hk hr, .inr ⟨rfl, .inl hr⟩⟩

/-- Settles O55: the cases of NEG and DBL. -/
theorem pnegPdblResults : Obligations.PnegPdblResults := by
  rintro s pd k x y hl hc hk rfl rfl
  have hneg := exec_pneg pd hl hc hk
  have hdbl := exec_pdbl pd hl hc hk
  refine ⟨fun hinf => ?_, fun hinf => ?_, fun hinf h0 => ?_, fun hinf hinv => ?_, fun hinf h0 hinv => ?_⟩
  · rw [getP_of_inf hinf] at hneg hdbl
    exact ⟨hneg, hdbl.trans (finish_writePoint_some pd s .infinity)⟩
  · rwa [getP_of_not_inf hinf] at hneg
  · rw [hdbl, getP_of_not_inf hinf, h0, dblPoint_zero, finish_writePoint_some]
  · obtain ⟨hx, -, -⟩ := hk.resolve_left (by simp [hinf])
    obtain ⟨l, x3, y3, hlt, hx3, hy3, hformula, hresult⟩ := hc.exists_dblPoint (y := s.getE (yReg k)) hx hinv
    refine ⟨l.toNat, x3.toNat, y3.toNat, hlt, hx3, hy3, hformula, ?_⟩
    rw [hdbl, getP_of_not_inf hinf, hresult, finish_writePoint_some, BitVec.ofNat_toNat, BitVec.ofNat_toNat,
      BitVec.setWidth_eq, BitVec.setWidth_eq]
  · rw [hdbl, getP_of_not_inf hinf, hc.dblPoint_eq_none h0 hinv, finish_writePoint_none]

/-- Settles O56: the cases of ADD. -/
theorem paddResults : Obligations.PaddResults := by
  rintro s pd k1 k2 x1 y1 x2 y2 hl hc hk1 hk2 rfl rfl rfl rfl
  have hadd := exec_padd pd hl hc hk1 hk2
  refine ⟨fun h1 => ?_, fun h1 h2 => ?_, fun h1 h2 hx hy => ?_, fun h1 h2 hx hy => ?_, fun h1 h2 hinv => ?_,
    fun h1 h2 hne hinv => ?_⟩
  · rw [hadd, getP_of_inf h1, addPoint_infinity_left, finish_writePoint_some]
  · rw [hadd, getP_of_inf h2, addPoint_infinity_right, finish_writePoint_some, getP_of_not_inf h1]
  · rw [hadd, exec_pdbl pd hl hc hk1, getP_of_not_inf h1, getP_of_not_inf h2, ← hx, ← hy, addPoint_self]
  · rw [hadd, getP_of_not_inf h1, getP_of_not_inf h2, ← hx, addPoint_opposite _ _ _ hy, finish_writePoint_some]
  · obtain ⟨hx1, hy1, -⟩ := hk1.resolve_left (by simp [h1])
    obtain ⟨hx2, -, -⟩ := hk2.resolve_left (by simp [h2])
    obtain ⟨l, x3, y3, hlt, hx3, hy3, hformula, hresult⟩ :=
      hc.exists_addPoint (y2 := s.getE (yReg k2)) hx1 hy1 hx2 hinv
    refine ⟨l.toNat, x3.toNat, y3.toNat, hlt, hx3, hy3, hformula, ?_⟩
    rw [hadd, getP_of_not_inf h1, getP_of_not_inf h2, hresult, finish_writePoint_some, BitVec.ofNat_toNat,
      BitVec.ofNat_toNat, BitVec.setWidth_eq, BitVec.setWidth_eq]
  · rw [hadd, getP_of_not_inf h1, getP_of_not_inf h2, hc.addPoint_eq_none hne hinv, finish_writePoint_none]

/-- Settles O57: MUL below CN, with its values for the scalars 0 and 1 and for O. -/
theorem smulResults : Obligations.SmulResults := by
  intro s pd k r hl hc hk
  refine ⟨exec_smul_of_ge pd r hl hc hk, fun hr => ?_⟩
  have hmul := exec_smul_of_lt pd r hl hc hk hr
  refine ⟨fun q hq => ?_, fun hnone => ?_, fun h => ?_, fun h1 => ?_⟩
  · rw [hmul, hq, finish_writePoint_some]
  · rw [hmul, hnone, finish_writePoint_none]
  · rcases h with h0 | hinf
    · rw [hmul, h0, mulPoint_zero, finish_writePoint_some]
    · rw [hmul, getP_of_inf hinf, mulPoint_infinity, finish_writePoint_some]
  · rw [hmul, h1, mulPoint_one, finish_writePoint_some]

/-- Settles O59: ADD commutes on points that pass the checks. -/
theorem paddCommutes : Obligations.PaddCommutes := by
  intro s pd k1 k2 hl hc hk1 hk2
  have hcomm := hc.addPoint_comm ((pointOk_iff_pointValid s k1).mp hk1) ((pointOk_iff_pointValid s k2).mp hk2)
  obtain ⟨t, ht, -⟩ := finish_writePoint_err s pd (addPoint s.cf s.ca (s.getP k1) (s.getP k2))
  exact ⟨t, (exec_padd pd hl hc hk1 hk2).trans ht, (exec_padd pd hl hc hk2 hk1).trans (hcomm ▸ ht)⟩

/-- Settles O60: NEG, DBL, ADD and MUL keep points on the curve, and a source that fails the checks ends in an error. -/
theorem resultsOnCurve : Obligations.ResultsOnCurve := by
  intro s pd k k2 r hl hc
  rcases pointCheck_ok_or_error hc k with hk | ⟨code, hne, hcheck⟩
  · have hvalid := (pointOk_iff_pointValid s k).mp hk
    simp only [List.forall_mem_cons, List.not_mem_nil, false_imp_iff, implies_true, and_true]
    refine ⟨?_, ?_, ?_, ?_⟩
    · rcases pointCheck_ok_or_error hc k2 with hk2 | ⟨code, hne, hcheck⟩
      · have hvalid2 := (pointOk_iff_pointValid s k2).mp hk2
        exact exec_padd pd hl hc hk hk2 ▸ finish_writePoint_pointOk s pd fun q => hvalid.add hc hvalid2
      · exact ⟨_, exec_padd_of_error pd hne (pointChecks_pair_of_error hl hc hk hcheck), fun h => absurd h hne⟩
    · exact exec_pdbl pd hl hc hk ▸ finish_writePoint_pointOk s pd fun q => hvalid.dbl hc
    · exact ⟨_, exec_pneg pd hl hc hk, fun _ => pointOk_succeeded_setP s pd hvalid.neg⟩
    · rcases Nat.lt_or_ge (s.getE r).toNat s.cn.toNat with hr | hr
      · exact exec_smul_of_lt pd r hl hc hk hr ▸ finish_writePoint_pointOk s pd fun q => hvalid.mul hc
      · exact ⟨_, exec_smul_of_ge pd r hl hc hk hr, fun h => by cases h⟩
  · intro i hi
    have hexec := exec_pointOp_of_error pd r hne (pointChecks_cons_of_error hl hcheck) k2 i hi
    exact ⟨_, hexec, fun h => absurd h hne⟩

end Sys2Proof.Machine
end

section
/-! SUPPORT. The completion of the command in flight: which command it runs and what it leaves in the flags; and the statements on
it, on NOP and on CFGLOCK. -/

namespace Sys2Proof.Machine

/-! ### Which command runs (R122, R128, R347) -/

theorem completeCommand_of_decode {s : State} {i : Instr} (h : decode s.cmd = .ok i) : completeCommand s = exec i s := by
  simp only [completeCommand, h]

/-- With a command just accepted, no delay and no hard reset at the head of the port, the core moves. -/
theorem coreMoves_withCommand (s : State) (w : Word) : CoreMoves (s.withCommand w) := by
  refine ⟨rfl, .inr ⟨rfl, fun hhead => ?_⟩⟩
  have hnot := List.head?_dropWhile_not (fun op => op == HostOp.hardReset) s.port
  rw [show s.port.dropWhile (fun op => op == .hardReset) = (s.withCommand w).port from rfl, hhead] at hnot
  cases hnot

theorem withFetchWord_toNat (s : State) (w : Word) : s.withFetchWord 32 w.toNat = s.withCommand w := by
  rw [State.withFetchWord, Nat.mod_eq_of_lt w.isLt, BitVec.ofNat_toNat, BitVec.setWidth_eq]

/-- Settles O7: the completion step decodes CMD, and a well-formed command's word decodes to that command (O1). -/
theorem stepRunsCommand : Obligations.StepRunsCommand := by
  have hruns (s : State) (i : Instr) (hm : CoreMoves s) (hd : decode s.cmd = .ok i) : step s = exec i s :=
    (step_of_coreMoves s hm).trans (completeCommand_of_decode hd)
  refine ⟨hruns, fun s i hwf => ?_⟩
  rw [withFetchWord_toNat]
  exact ⟨rfl, hruns _ i (coreMoves_withCommand s _) (decodeEncode i hwf)⟩

/-! ### The flags (R347, R371) -/

/-- A completion makes the writes of the command that CMD decodes to, or none, and then sets the flags for its code. -/
theorem completeCommand_writes (s : State) :
    ∃ i u code, completeCommand s = .next (u.complete code) ∧ CommandWrites s i u ∧ (u = s ∨ decode s.cmd = .ok i) := by
  cases hd : decode s.cmd with
  | ok i =>
    obtain ⟨u, code, w, hu⟩ := exec_writes s i
    exact ⟨i, u, code, (completeCommand_of_decode hd).trans hu, w, .inr rfl⟩
  | error why => exact ⟨.nop, s, .illegalCmd, by rw [completeCommand, hd]; rfl, .nothing _, .inl rfl⟩

theorem CommandWrites.irqErr_eq {s u : State} {i : Instr} (w : CommandWrites s i u) : u.irqErr = s.irqErr := by
  cases w <;> simp

/-- Settles O9: no command's writes touch IRQ_STAT.ERR, so it is the flags' own rule that decides it. -/
theorem completionFlags : Obligations.CompletionFlags := by
  intro s hm
  obtain ⟨i, u, code, ht, w, -⟩ := completeCommand_writes s
  refine ⟨u.complete code, (step_of_coreMoves s hm).trans ht, rfl, rfl, rfl, fun herr => ?_, fun hok => ?_⟩
  · rw [complete_err] at herr
    simp [herr]
  · rw [complete_err] at hok
    simp [hok, w.irqErr_eq]

/-! ### NOP and CFGLOCK (R340, R343) -/

/-- Settles O29: NOP's rule succeeds with no write. -/
theorem nopCompletes : Obligations.NopCompletes := fun s => finish_ok s s

theorem exec_cfglock_locked {s : State} (hl : s.lock = true) : exec .cfglock s = .next (succeeded s) := by
  simp only [exec, execCfglock, hl, if_true, finish_ok]

theorem exec_cfglock_valid {s : State} (hl : s.lock = false) (hc : ConfigOk s) :
    exec .cfglock s = .next (succeeded { s with lock := true }) := by
  simp only [exec, execCfglock, hl, Bool.false_eq_true, if_false, if_pos ((configValid_iff s).mpr hc), finish_ok]

theorem exec_cfglock_invalid {s : State} (hl : s.lock = false) (hc : ¬ConfigOk s) :
    exec .cfglock s = .next (failed s .badConfig) := by
  simp only [exec, execCfglock, hl, Bool.false_eq_true, if_false, if_neg (mt (configValid_iff s).mp hc)]
  exact finish_error s (by decide)

/-- Settles O30: CFGLOCK looks at LOCK first, then at the configuration. -/
theorem cfglockValidates : Obligations.CfglockValidates := fun _ =>
  ⟨exec_cfglock_locked, exec_cfglock_valid, exec_cfglock_invalid⟩

end Sys2Proof.Machine
end

section
/-! SUPPORT. What one step can do, said once; what it keeps of the command in flight; and the statements on acceptance
and on the time to completion. -/

namespace Sys2Proof.Machine

/-- `StepEffect s t`: a step from s can end in t. -/
inductive StepEffect (s : State) : State → Prop where
  /-- The core completes the command in flight (R347). -/
  | completion (hm : CoreMoves s) {i : Instr} {u : State} (w : CommandWrites s i u) (hd : u = s ∨ decode s.cmd = .ok i)
      (code : ErrCode) : StepEffect s (u.complete code)
  /-- Nothing is in flight and nothing waits at the port. -/
  | idle (hb : s.busy = false) : StepEffect s s
  /-- A host operation that changes no register: a read, a turn of WAIT, or a failed write (R82, R88, R131). -/
  | served (hm : HostMoves s) (rest : List HostOp) (a : BusAnswer) (n : Nat) :
      StepEffect s { s.take rest with answer := some a, draws := n }
  /-- A write accepted on the bus (R82). -/
  | write (hm : HostMoves s) (off : Nat) (v : Word) (rest : List HostOp)
      (hp : s.port = .write (base + off) 4 v :: rest) (hlt : off < 0x1000) (ha : off % 4 = 0) :
      StepEffect s { (s.take rest).writeReg (windowReg off) v with answer := some .written }
  /-- A hard reset, whatever is in flight (R376, R400). -/
  | hardReset (rest : List HostOp) (hp : s.port = .hardReset :: rest) : StepEffect s (s.take rest).resetUnit

/-- Either the core moves, or a hard reset is asserted, or the host does. -/
theorem coreMoves_or_hostMoves (s : State) :
    CoreMoves s ∨ s.port.head? = some .hardReset ∨ (s.busy = true → s.port ≠ []) ∧ HostMoves s := by
  unfold CoreMoves HostMoves
  by_cases hr : s.port.head? = some .hardReset
  · exact .inr (.inl hr)
  · cases hb : s.busy with
    | false => simp
    | true =>
      by_cases hp : s.port = []
      · simp [hp]
      · rcases Nat.eq_zero_or_pos s.delay with hd | hd
        · exact .inl ⟨rfl, .inr ⟨hd, hr⟩⟩
        · exact .inr (.inr ⟨fun _ => hp, .inr hd⟩)

theorem stepEffect_of_step {s t : State} (h : step s = .next t) : StepEffect s t := by
  rcases coreMoves_or_hostMoves s with hm | hr | ⟨hwaits, hm⟩
  · obtain ⟨i, u, code, hu, w, hd⟩ := completeCommand_writes s
    cases ((step_of_coreMoves s hm).trans hu).symm.trans h
    exact .completion hm w hd code
  · obtain ⟨rest, hp⟩ := List.head?_eq_some_iff.mp hr
    cases (step_hardReset s hp).symm.trans h
    exact .hardReset rest hp
  · by_cases hp : s.port = []
    · have hidle : s.busy = false := by simpa [hp] using hwaits
      have hturn : step s = .next s := by simp [step, State.coreMoves, hidle, hostTurn, hp]
      cases hturn.symm.trans h
      exact .idle hidle
    · rw [step_of_hostMoves s hm hp] at h
      rcases hostTurn_cases h with
        ⟨hnil, -⟩ | ⟨rest, a, n, rfl⟩ | ⟨off, v, rest, hp', hlt, ha, rfl⟩ | ⟨rest, hp', rfl⟩
      · exact absurd hnil hp
      · exact .served hm rest a n
      · exact .write hm off v rest hp' hlt ha
      · exact .hardReset rest hp'

/-! ### Writes while a command is in flight -/

/-- CTRL resets the whole unit with SRST, and else changes WERR at most (R46). -/
theorem writeCtrl_cases (s : State) (v : Word) :
    (v.getLsbD 0 = true ∧ s.writeCtrl v = s.resetUnit) ∨ ∃ b, s.writeCtrl v = { s with werr := b } := by
  cases h0 : v.getLsbD 0 with
  | true => exact .inl ⟨rfl, writeCtrl_srst s h0⟩
  | false =>
    cases h1 : v.getLsbD 1 with
    | true => exact .inr ⟨false, writeCtrl_clrwerr s h0 h1⟩
    | false => exact .inr ⟨s.werr, writeCtrl_neither s h0 h1⟩

/-- CMD, BUSY, DONE, ERR and everything that a command reads or writes: the state with WERR, the interrupt registers
and the model's own fields as reset leaves them. -/
def State.inFlightPart (s : State) : State :=
  { s with
    werr := false, irqDoneEn := false, irqErrEn := false, irqDone := false, irqErr := false
    port := [], answer := none, delay := 0, draws := 0 }

theorem eq_of_inFlightPart_eq {s t : State} (h : t.inFlightPart = s.inFlightPart) :
    t = { s with
          werr := t.werr, irqDoneEn := t.irqDoneEn, irqErrEn := t.irqErrEn, irqDone := t.irqDone
          irqErr := t.irqErr, port := t.port, answer := t.answer, delay := t.delay, draws := t.draws } := by
  have heta : t = { t.inFlightPart with
      werr := t.werr, irqDoneEn := t.irqDoneEn, irqErrEn := t.irqErrEn, irqDone := t.irqDone
      irqErr := t.irqErr, port := t.port, answer := t.answer, delay := t.delay, draws := t.draws } := rfl
  rw [h] at heta
  exact heta

/-- A write that leaves the command in flight keeps its word, its operands and its delay (R93, R346). -/
theorem writeReg_inFlight {s : State} {r : WindowReg} {v : Word} (hb : s.busy = true) (ht : (s.writeReg r v).busy = true) :
    (s.writeReg r v).inFlightPart = s.inFlightPart ∧ (s.writeReg r v).delay = s.delay := by
  cases r
  case ctrl =>
    rw [State.writeReg] at ht ⊢
    rcases writeCtrl_cases s v with ⟨-, hreset⟩ | ⟨b, hwerr⟩
    · rw [hreset] at ht
      cases ht
    · rw [hwerr]
      exact ⟨rfl, rfl⟩
  case cmd | kcfg | pinf | key | block | hiv | hmsg | elem =>
    all_goals
      rw [State.writeReg, ifIdle_of_busy s hb]
      exact ⟨rfl, rfl⟩
  case curveM | cf | ca | cb | cn =>
    all_goals
      rw [State.writeReg, ifUnlocked_of_busy s hb]
      exact ⟨rfl, rfl⟩
  all_goals exact ⟨rfl, rfl⟩

/-- A step that leaves the command in flight is one of the host's, which the delay counts, and it keeps the command's
word and operands (R346, R416). -/
theorem step_inFlight {s t : State} (hb : s.busy = true) (h : step s = .next t) (ht : t.busy = true) :
    t.inFlightPart = s.inFlightPart ∧ t.delay + 1 = s.delay := by
  have hcount (hm : HostMoves s) : s.delay - 1 + 1 = s.delay :=
    Nat.sub_add_cancel (hm.resolve_left (by simp [hb]))
  cases stepEffect_of_step h with
  | completion => cases ht
  | idle hidle => cases hidle.symm.trans hb
  | served hm rest a n => exact ⟨rfl, hcount hm⟩
  | write hm off v rest =>
    obtain ⟨hpart, hdelay⟩ := writeReg_inFlight (s := s.take rest) hb ht
    exact ⟨hpart, (congrArg (· + 1) hdelay).trans (hcount hm)⟩
  | hardReset => cases ht

/-! ### The statements -/

/-- Settles O8: CMD is written like every command input, and what acceptance sets is then kept while the command is in
flight. -/
theorem commandAcceptance : Obligations.CommandAcceptance := by
  refine ⟨fun s rest w hp => ⟨fun hb => ?accepted, fun hb hd => ?ignored⟩, fun s t hb h ht => ?kept⟩
  case accepted =>
    have hacc : (s.take rest).writeReg (windowReg 0x010) w = (s.take rest).accept w := ifIdle_of_idle (s.take rest) hb _
    refine ⟨Config.completionDelay s.draws, ?_⟩
    rw [step_write s (.inl hb) (by decide) (by decide) hp, hacc]
    rfl
  case ignored =>
    obtain ⟨-, -, -, -, hinput, -⟩ := busyWrites s 0x010 w rest hb hd rfl hp
    exact hinput (.inl rfl)
  case kept => exact eq_of_inFlightPart_eq (step_inFlight hb h ht).1

theorem run_succ_of_step {s t : State} (h : step s = .next t) (n : Nat) : run (n + 1) s = run n t := by
  rw [run, h]

/-- Settles O12, by induction on the delay: a step answers a next state (O27), and it either ends the command or counts
the delay down. -/
theorem completesInTime : Obligations.CompletesInTime := by
  intro s
  induction hd : s.delay using Nat.strong_induction_on generalizing s with
  | _ d ih =>
    intro hb hport
    obtain ⟨t, ht, hsub⟩ := neverStops s hport
    cases hbt : t.busy with
    | false => exact ⟨1, t, Nat.one_pos, by omega, run_succ_of_step ht 0, hbt⟩
    | true =>
      obtain ⟨-, hdelay⟩ := step_inFlight hb ht hbt
      obtain ⟨n, u, -, hn, hrun, hu⟩ := ih t.delay (by omega) t rfl hbt hsub
      exact ⟨n + 1, u, n.succ_pos, by omega, (run_succ_of_step ht n).trans hrun, hu⟩

end Sys2Proof.Machine
end

section
/-! SUPPORT. Writes under LOCK (R94, R345), and the statement on LOCK. -/

namespace Sys2Proof.Machine

/-- The place of a register that an offset maps to gives the offset back. -/
theorem eq_offset_of_windowReg {off : Nat} {r : WindowReg} (h : off < 0x1000) (ha : off % 4 = 0) (hr : r.Placed)
    (hoff : windowReg off = r) : off = r.offset := by
  rcases reserved_or_offset h ha with hres | ⟨r', hr', ho⟩
  · rw [← hoff, windowReg_reserved hres] at hr
    exact hr.elim
  · rwa [← hoff, windowReg_of_eq_offset hr' ho]

/-- CURVE_M, CF, CA, CB and CN, which LOCK freezes (R345). -/
def State.curveConfig (s : State) : BitVec 10 × Elem × Elem × Elem × Elem := (s.curveM, s.cf, s.ca, s.cb, s.cn)

section
variable {s : State}

theorem ifUnlocked_of_locked (h : s.lock = true) (t : State) : s.ifUnlocked t = { s with werr := true } :=
  if_pos (by rw [h, Bool.or_true])

/-- With LOCK = 1 a write of the curve configuration only sets WERR. -/
theorem writeReg_curveConfig_locked (hl : s.lock = true) {off : Nat} (h : CurveConfigInput off) (ha : off % 4 = 0) (v : Word) :
    s.writeReg (windowReg off) v = { s with werr := true } := by
  unfold CurveConfigInput at h
  rcases reserved_or_offset (by omega) ha with hres | ⟨r, hr, ho⟩
  · unfold ReservedOffset at hres
    omega
  · rw [windowReg_of_eq_offset hr ho]
    cases r <;> simp only [WindowReg.Placed, WindowReg.offset] at hr ho
    case curveM | cf | ca | cb | cn => all_goals exact ifUnlocked_of_locked hl _
    all_goals omega

theorem ifIdle_lock_config {t : State} (hl : t.lock = s.lock) (hc : t.curveConfig = s.curveConfig) :
    (s.ifIdle t).lock = s.lock ∧ (s.lock = true → (s.ifIdle t).curveConfig = s.curveConfig) := by
  unfold State.ifIdle
  split
  · exact ⟨rfl, fun _ => rfl⟩
  · exact ⟨hl, fun _ => hc⟩

theorem ifUnlocked_lock_config {t : State} (hl : t.lock = s.lock) :
    (s.ifUnlocked t).lock = s.lock ∧ (s.lock = true → (s.ifUnlocked t).curveConfig = s.curveConfig) := by
  refine ⟨?_, fun h => by rw [ifUnlocked_of_locked h]; rfl⟩
  unfold State.ifUnlocked
  split
  · rfl
  · exact hl

/-- A write is CTRL's soft reset, or it keeps LOCK and, under LOCK, the curve configuration (R345). -/
theorem writeReg_lock_cases (s : State) (r : WindowReg) (v : Word) :
    (r = .ctrl ∧ v.getLsbD 0 = true ∧ s.writeReg r v = s.resetUnit)
      ∨ ((s.writeReg r v).lock = s.lock ∧ (s.lock = true → (s.writeReg r v).curveConfig = s.curveConfig)) := by
  cases r
  case ctrl =>
    rw [State.writeReg]
    rcases writeCtrl_cases s v with ⟨h0, hreset⟩ | ⟨b, hwerr⟩
    · exact .inl ⟨rfl, h0, hreset⟩
    · rw [hwerr]
      exact .inr ⟨rfl, fun _ => rfl⟩
  case cmd | kcfg | pinf | key | block | hiv | hmsg | elem =>
    all_goals exact .inr (ifIdle_lock_config rfl rfl)
  case curveM | cf | ca | cb | cn => all_goals exact .inr (ifUnlocked_lock_config rfl)
  all_goals exact .inr ⟨rfl, fun _ => rfl⟩

end

namespace CommandWrites

variable {s u : State} {i : Instr}

theorem curveConfig_eq (w : CommandWrites s i u) : u.curveConfig = s.curveConfig := by
  obtain ⟨-, -, -, hm, hf, ha, hb, hn, -⟩ := w.host_fields_eq
  simp only [State.curveConfig, hm, hf, ha, hb, hn]

/-- No command clears LOCK. -/
theorem locked (w : CommandWrites s i u) (h : s.lock = true) : u.lock = true := by
  cases w <;> simp [h]

end CommandWrites

/-- A CFGLOCK that ends with LOCK set over LOCK = 0 succeeded. -/
theorem err_of_exec_cfglock {s t : State} (h : exec .cfglock s = .next t) (hl : s.lock = false) (ht : t.lock = true) :
    t.err = .ok := by
  by_cases hc : ConfigOk s
  · cases (exec_cfglock_valid hl hc).symm.trans h
    rfl
  · cases (exec_cfglock_invalid hl hc).symm.trans h
    cases hl.symm.trans ht

/-- A step that sets LOCK is the completion of a CFGLOCK. -/
theorem cfglock_of_step_locks {s t : State} (h : step s = .next t) (hl : s.lock = false) (ht : t.lock = true) :
    CoreMoves s ∧ decode s.cmd = .ok .cfglock := by
  have hne {b : Bool} (hb : b = true) : b ≠ s.lock := by simp [hb, hl]
  cases stepEffect_of_step h with
  | completion hm w hd =>
    obtain rfl := w.of_lock_ne (hne ht)
    refine ⟨hm, hd.resolve_left ?_⟩
    rintro rfl
    exact hne ht rfl
  | idle => exact absurd rfl (hne ht)
  | served => exact absurd rfl (hne ht)
  | write _ off v rest =>
    rcases writeReg_lock_cases (s.take rest) (windowReg off) v with ⟨-, -, hreset⟩ | ⟨hlock, -⟩
    · cases (congrArg State.lock hreset).symm.trans ht
    · exact absurd hlock (hne ht)
  | hardReset => cases ht

/-- A step from LOCK = 1 is a hard reset, a write of CTRL.SRST, or it keeps LOCK and the curve configuration. -/
theorem step_locked_cases {s t : State} (h : step s = .next t) (hl : s.lock = true) :
    (t.lock = false ∧ ((∃ rest, s.port = .hardReset :: rest)
        ∨ ∃ v rest, s.port = .write (base + 0x008) 4 v :: rest ∧ v.getLsbD 0 = true))
      ∨ (t.lock = true ∧ t.curveConfig = s.curveConfig) := by
  cases stepEffect_of_step h with
  | completion _ w => exact .inr ⟨w.locked hl, w.curveConfig_eq⟩
  | idle => exact .inr ⟨hl, rfl⟩
  | served => exact .inr ⟨hl, rfl⟩
  | write _ off v rest hp hlt ha =>
    rcases writeReg_lock_cases (s.take rest) (windowReg off) v with ⟨hctrl, h0, hreset⟩ | ⟨hlock, hconfig⟩
    · obtain rfl : off = 0x008 := eq_offset_of_windowReg (r := .ctrl) hlt ha trivial hctrl
      exact .inl ⟨congrArg State.lock hreset, .inr ⟨v, rest, hp, h0⟩⟩
    · exact .inr ⟨hlock.trans hl, hconfig hl⟩
  | hardReset rest hp => exact .inl ⟨rfl, .inl ⟨rest, hp⟩⟩

/-- Settles O15: of all that a step can do, only CFGLOCK sets LOCK, only the two resets clear it, and a write of the
configuration has an effect only without it. -/
theorem lockRules : Obligations.LockRules := by
  refine ⟨fun s t h hl ht => ?set, fun s t h hl ht => ?cleared, fun s t h hl ht => ?kept,
    fun s off v rest hl hm hin ha hp => ?ignored⟩
  case set =>
    obtain ⟨hm, hd⟩ := cfglock_of_step_locks h hl ht
    exact ⟨hm, hd, err_of_exec_cfglock ((stepRunsCommand.1 s _ hm hd).symm.trans h) hl ht⟩
  case cleared =>
    rcases step_locked_cases h hl with ⟨-, hreset⟩ | ⟨hlock, -⟩
    · exact hreset
    · cases ht.symm.trans hlock
  case kept =>
    rcases step_locked_cases h hl with ⟨hlock, -⟩ | ⟨-, hconfig⟩
    · cases ht.symm.trans hlock
    · simpa only [State.curveConfig, Prod.mk.injEq] using hconfig
  case ignored =>
    have hlt : off < 0x1000 := by unfold CurveConfigInput at hin; omega
    rw [step_write s hm hlt ha hp, writeReg_curveConfig_locked (s := s.take rest) hl hin ha]
    rfl

end Sys2Proof.Machine
end

section
/-! SUPPORT. The completion as the evaluation of one rule, which is what makes an error precise (R347, R366), and the interrupt output
after it (R370, R371); and the statements on them. -/

namespace Sys2Proof.Machine

/-! ### A completion evaluates one rule -/

/-- Every command evaluates a rule on the state it began in, which either gives the state with its writes applied or raises
an error (R347). -/
theorem exec_eq_finish (s : State) (i : Instr) : ∃ r, exec i s = finish s r := by
  cases i
  case nop => exact ⟨.ok s, rfl⟩
  case hinit => exact ⟨.ok _, rfl⟩
  all_goals exact ⟨_, rfl⟩

/-- So does every completion; the rule of an illegal word raises ILLEGAL_CMD (R128). -/
theorem completeCommand_eq_finish (s : State) : ∃ r, completeCommand s = finish s r := by
  cases hd : decode s.cmd with
  | ok i =>
    obtain ⟨r, hr⟩ := exec_eq_finish s i
    exact ⟨r, (completeCommand_of_decode hd).trans hr⟩
  | error why => exact ⟨.error .illegalCmd, by rw [completeCommand, hd]; rfl⟩

/-- `finish` gives the error's completion the state that the rule was evaluated on, and no write of the rule. -/
theorem eq_failed_of_finish {s t : State} {r : Except ErrCode State} (h : finish s r = .next t) (herr : t.err ≠ .ok) :
    t = failed s t.err := by
  rcases finish_cases s r with ⟨u, -, hu⟩ | ⟨code, -, hcode⟩
  · cases hu.symm.trans h
    exact absurd rfl herr
  · cases hcode.symm.trans h
    exact raise_eq_failed s herr

/-- Settles O10: the completion evaluates one rule, and an error of that rule discards its writes. -/
theorem errorIsPrecise : Obligations.ErrorIsPrecise := by
  intro s t hm ht herr
  obtain ⟨r, hr⟩ := completeCommand_eq_finish s
  have hfinish : finish s r = .next t := hr.symm.trans ((step_of_coreMoves s hm).symm.trans ht)
  exact eq_failed_of_finish hfinish herr

/-! ### The interrupt output (R370) -/

/-- Right after a completion the done source is pending, and the error source is if it was or the code is an error. -/
theorem irq_complete (u : State) (code : ErrCode) :
    (u.complete code).irq = (u.irqDoneEn || (u.irqErrEn && (u.irqErr || code != .ok))) := by
  simp [State.irq, Bool.and_comm]

/-- Settles O26: the command's own writes touch neither the enables nor the pending error, so IRQ is what the flags of the
completion make it. -/
theorem interruptAtCompletion : Obligations.InterruptAtCompletion := by
  intro s hm
  obtain ⟨i, u, code, ht, w, -⟩ := completeCommand_writes s
  obtain ⟨-, -, -, -, -, -, -, -, -, -, -, -, hdoneEn, herrEn, -⟩ := w.host_fields_eq
  refine ⟨u.complete code, (step_of_coreMoves s hm).trans ht, ?_⟩
  rw [irq_complete, complete_err, hdoneEn, herrEn, w.irqErr_eq]

end Sys2Proof.Machine
end

section
/-! SUPPORT. What stands in the window after a reset (R400), and the statements on the hard and the soft reset. -/

namespace Sys2Proof.Machine

/-! ### The window after a reset (R84, R400) -/

theorem wordAt_zero (n w : Nat) : wordAt 0#n w = 0#32 := BitVec.extractLsb'_zero

theorem getE_reset (i : EReg) : State.reset.getE i = 0#512 := Vector.getElem_replicate _

/-- Every place but ID and VERSION reads zero after a reset. -/
theorem readReg_reset {r : WindowReg} (hid : r ≠ .id) (hversion : r ≠ .version) : State.reset.readReg r = 0#32 := by
  cases r
  case id => exact absurd rfl hid
  case version => exact absurd rfl hversion
  case elem i w => rw [State.readReg, getE_reset, wordAt_zero]
  case rk i w => rw [State.readReg, getRk_replicate_zero rfl, wordAt_zero]
  case key | block | hiv | hmsg | hh | hsig | hlen | cf | ca | cb | cn => all_goals exact wordAt_zero _ _
  all_goals rfl

/-- Past VERSION the 32-bit registers are others. -/
theorem controlReg_past_version {n : Nat} (h : 2 ≤ n) : controlReg n ≠ .id ∧ controlReg n ≠ .version := by
  rcases Nat.lt_or_ge n 11 with hlt | hge
  · interval_cases n <;> exact ⟨nofun, nofun⟩
  · rw [controlReg_reserved hge]
    exact ⟨nofun, nofun⟩

/-- ID and VERSION are the first two words of the window alone. -/
theorem windowReg_past_version {off : Nat} (h : 8 ≤ off) : windowReg off ≠ .id ∧ windowReg off ≠ .version := by
  rcases Nat.lt_or_ge off 0x100 with hlt | hge
  · rw [windowReg, if_pos hlt]
    exact controlReg_past_version (by omega)
  · rw [windowReg, if_neg (by omega)]
    repeat' refine iteInduction (motive := fun r : WindowReg => r ≠ .id ∧ r ≠ .version) (fun _ => ?_) fun _ => ?_
    all_goals exact ⟨nofun, nofun⟩

/-- A byte offset below 0x100 reads the 32-bit register of its word. -/
theorem windowReg_of_word {off n : Nat} (h : off < 0x100) (hn : off / 4 = n) : windowReg off = controlReg n := by
  rw [windowReg, if_pos h, hn]

theorem readReg_windowReg_reset (off : Nat) :
    State.reset.readReg (windowReg off) = if off < 4 then 0x554B4331#32 else if off < 8 then 1#32 else 0#32 := by
  split
  case isTrue h => rw [windowReg_of_word (n := 0) (by omega) (by omega)]; rfl
  case isFalse h4 =>
    split
    case isTrue h8 => rw [windowReg_of_word (n := 1) (by omega) (by omega)]; rfl
    case isFalse h8 =>
      obtain ⟨hid, hversion⟩ := windowReg_past_version (Nat.le_of_not_lt h8)
      exact readReg_reset hid hversion

/-! ### The statements -/

/-- Settles O14: LOCK, BUSY, SCHED.VALID and ONC are 0, and RK and the hash state are zero. -/
theorem legalReset : Obligations.LegalReset := legalState_reset

/-- Settles O25: a hard reset is served before anything else (R376), and it is `resetUnit`. -/
theorem hardReset : Obligations.HardReset :=
  ⟨fun s _ hp => step_hardReset s hp, fun off _ => readReg_windowReg_reset off, rfl, rfl⟩

/-- Settles O24: SRST's write leaves the state of O23 and a hard reset that of O25, which differ in the answer alone; and
as BUSY is 0 in it, the read that follows is exact (O20). -/
theorem softReset : Obligations.SoftReset := by
  intro s v rest hm h0 hp
  have hsoft : step s = .next { State.reset with port := rest, answer := some .written, draws := s.draws } :=
    (ctrlWrite.2 s v rest hm hp).1 h0
  refine ⟨⟨_, hsoft, rfl, rfl, rfl⟩, fun t u ht hu => ?sameAsHard, fun off rest' ha h hrest => ?nextRead⟩
  case sameAsHard =>
    have hhard : step { s with port := .hardReset :: rest } = .next { State.reset with port := rest, draws := s.draws } :=
      hardReset.1 _ rest rfl
    cases hhard.symm.trans ht
    cases hsoft.symm.trans hu
    rfl
  case nextRead =>
    have hread := idleReads { State.reset with port := rest, answer := some .written, draws := s.draws } off rest'
      rfl ha h hrest
    refine ⟨_, (run_succ_of_step hsoft 1).trans (run_succ_of_step hread 0), ?_⟩
    exact congrArg (some ∘ BusAnswer.data) (readReg_host_fields State.reset (windowReg off) rest _ _ _)

end Sys2Proof.Machine
end
